-- ==== Sys2Proof/Word.lean ====
section
/-! DEFINITION. Word types: what the bus, the registers and the memories are made of. -/

namespace Sys2Proof

/-- One byte of the block's byte address space (20_memory.md R37). -/
abbrev Byte := BitVec 8

/-- A register, bus word or binary32 sample: 32 bits, bit 0 the least significant (20_memory.md R41, R43, R44). -/
abbrev Word := BitVec 32

end Sys2Proof
end

