-- ==== Sys2Proof/Config.lean ====
section
/-! DEFINITION. What is fixed when the block is built (00_scope.md R10, R12) and the values the spec leaves open
(93_implementation_defined.md U4 to U8), the latter as constants without a body: nothing can evaluate them. -/

namespace Sys2Proof

/-- The affine map WT_TRANSFORM into the stored range (40_wavetable.md R71). -/
inductive Transform where
  /-- T(x) = (x + 1) / 2; PARAM_TRANSFORM reads 0. -/
  | halfOffset
  /-- T(x) = x + 1; PARAM_TRANSFORM reads 1. -/
  | offset
deriving DecidableEq, Repr

/-- WT_IMAGE, the contents of the ROM (40_wavetable.md R72). -/
inductive Image where
  /-- The reference image of the build's other parameters (40_wavetable.md R73), its words computed when read. -/
  | reference
  /-- An image given word by word: row p holds WT[p][0], WT[p][1], ... (10_state.md R32). -/
  | table (rows : List (List Word))
deriving DecidableEq, Repr

/-- The elaboration parameters of one built block (00_scope.md R10). They are plain data of the state, so that a
statement about every state is a statement about every build (log 1). -/
structure Build where
  /-- FS, the sampling rate in hertz. -/
  fs : Nat
  /-- BS, the samples per block. -/
  bs : Nat
  /-- The binary32 bits of BASE_FREQ. -/
  baseFreq : Word
  /-- WT_TRANSFORM. -/
  transform : Transform
  /-- SEQ_DEPTH, the entries of the sequence memory. -/
  seqDepth : Nat
  /-- WT_IMAGE, the ROM. -/
  wt : Image
deriving DecidableEq, Repr

namespace Config

/-- The number of pitch classes (00_scope.md R12). -/
def pitchClasses : Nat := 12

/-- The most notes of a chord, MAX_VOICES (00_scope.md R10). -/
def maxVoices : Nat := 3

/-- FS of the default build, the document's value (00_scope.md R10). -/
def defaultSamplingRate : Nat := 44100

/-- BS of the default build (00_scope.md R10). -/
def defaultBlockSize : Nat := 1814

/-- BASE_FREQ of the default build, 440.0 (00_scope.md R10). -/
def defaultBaseFreq : Word := 0x43DC0000#32

/-- SEQ_DEPTH of the default build (00_scope.md R10). -/
def defaultSeqDepth : Nat := 32

/-- The byte that the `fill`-th unspecified contents of the sequence memory hold at an address
(U4, 70_reset_and_hazards.md R142; log 8). -/
opaque seqByte (fill address : Nat) : BitVec 8

/-- The byte that the `fill`-th unspecified contents of the output block hold at an address
(U5, U7, 70_reset_and_hazards.md R142, 60_exceptions.md R126; log 8). -/
opaque outByte (fill address : Nat) : BitVec 8

/-- What the `draw`-th read of OUT, CUR_INDEX or BLOCK_COUNT while busy returns
(U6, 70_reset_and_hazards.md R146; log 9). -/
opaque busyRead (draw : Nat) : BitVec 32

/-- Whether CUR_INDEX takes the aborted command's value (U8, 60_exceptions.md R126; log 10). -/
opaque abortTakesCurIndex (draw : Nat) : Bool

/-- Whether BLOCK_COUNT takes the aborted command's value (U8, 60_exceptions.md R126; log 10). -/
opaque abortTakesBlockCount (draw : Nat) : Bool

/-- Whether STATUS.ARMED takes the aborted command's value (U8, 60_exceptions.md R126; log 10). -/
opaque abortTakesArmed (draw : Nat) : Bool

/-- The sum of two words of which one is no non-negative finite binary32; the mixer makes none
(42_mixer.md R90; log 12). -/
opaque sumOutsideSamples (a b : BitVec 32) : BitVec 32

/-- The quotient of two words of which one is no non-negative finite binary32, or by zero; the mixer makes none
(42_mixer.md R90; log 12). -/
opaque quotientOutsideSamples (a b : BitVec 32) : BitVec 32

end Config

end Sys2Proof
end

