-- ==== Sys2Proof/Machine/Binary32.lean ====
section
/-! DEFINITION. binary32 addition and division on the non-negative finite values the mixer sees, as exact
rationals with one rounding step (20_memory.md R44, 42_mixer.md R89, R90). -/

namespace Sys2Proof.Machine

/-- The biased exponent, bits [30:23] (20_memory.md R44). -/
def exponentField (w : Word) : Nat := (w.extractLsb' 23 8).toNat

/-- The fraction, bits [22:0] (20_memory.md R44). -/
def fractionField (w : Word) : Nat := (w.extractLsb' 0 23).toNat

/-- A sample the ROM may hold: sign bit clear, neither infinity nor NaN (40_wavetable.md R72). -/
def isSample (w : Word) : Bool := !w.getLsbD 31 && exponentField w != 255

/-- val(w) of a sample counted in units of 2^-149, the spacing of the subnormals: exact, since every finite
binary32 is a whole number of them (20_memory.md R44). -/
def sampleUnits (w : Word) : Nat :=
  if exponentField w = 0 then fractionField w
  else (2 ^ 23 + fractionField w) * 2 ^ (exponentField w - 1)

/-- num / den rounded to the nearest whole number, ties to even (42_mixer.md R89). -/
def roundTiesEven (num den : Nat) : Nat :=
  let floor := num / den
  let twice := 2 * (num % den)
  if twice < den then floor
  else if den < twice then floor + 1
  else floor + floor % 2

/-- The power of two by which the spacing of the binary32 values around num / den units exceeds one unit. -/
def spacingLog (num den : Nat) : Nat := (num / den).log2 - 23

/-- The binary32 value nearest to num / den units of 2^-149, ties to even; past the largest finite value it is
+infinity (42_mixer.md R89). With the spacing 2^k, the word is the rounded multiple of 2^k plus k binades. -/
def nearestBinary32 (num den : Nat) : Word :=
  let k := spacingLog num den
  BitVec.ofNat 32 (min (k * 2 ^ 23 + roundTiesEven num (den * 2 ^ k)) 0x7F800000)

/-- fadd32 (42_mixer.md R89), on samples (R90). -/
def fadd32 (a b : Word) : Word :=
  if isSample a && isSample b then nearestBinary32 (sampleUnits a + sampleUnits b) 1
  else Config.sumOutsideSamples a b

/-- fdiv32 (42_mixer.md R89), on samples and a divisor above 0 (R90). -/
def fdiv32 (a b : Word) : Word :=
  if isSample a && isSample b && sampleUnits b != 0 then
    nearestBinary32 (sampleUnits a * 2 ^ 149) (sampleUnits b)
  else Config.quotientOutsideSamples a b

/-- f32(n), the binary32 value of a small whole number (00_scope.md section 6). -/
def f32 (n : Nat) : Word := nearestBinary32 (n * 2 ^ 149) 1

end Sys2Proof.Machine
end

