-- ==== Sys2Proof/Machine/Wavetable.lean ====
section
/-! DEFINITION. The wavetable ROM (Wavetable Bank): the reference image of 40_wavetable.md R73, evaluated in fixed
point with 320 fractional bits (log 5), how a word of the ROM is read, and which parameters a block can be built with
(00_scope.md R10, R11; log 6). -/

namespace Sys2Proof

/-- What PARAM_TRANSFORM reads (10_state.md R30). -/
def Transform.code : Transform → Word
  | .halfOffset => 0#32
  | .offset => 1#32

/-- The legal ranges of FS, BS, BASE_FREQ and SEQ_DEPTH (00_scope.md R10). -/
def Build.inRange (b : Build) : Bool :=
  decide (1 ≤ b.fs) && decide (b.fs < 2 ^ 32) && decide (1 ≤ b.bs) && decide (b.bs ≤ 8192)
    && decide (1 ≤ b.seqDepth) && decide (b.seqDepth ≤ 4096)
    && Machine.isSample b.baseFreq && b.baseFreq != 0#32

/-- The number T(x) divides x + 1 by (40_wavetable.md R71). -/
def Transform.divisor : Transform → Nat
  | .halfOffset => 2
  | .offset => 1

namespace Machine

/-- One in fixed point with 320 fractional bits. -/
def fixedOne : Nat := 2 ^ 320

/-- 2 pi in fixed point, rounded down (log 5). -/
def fixedTwoPi : Nat :=
  13420802360424337830311681948440006481608388178854297901454212848703426437343610760199000777828079

/-- 2^((p - 9) / 12) for the twelve pitch classes in fixed point, rounded down (40_wavetable.md R69; log 5). -/
def fixedPitchRatios : List Nat :=
  [ 1270065490335359505245925928030672129342785857250947679183276938274822948711619686680971274506408,
    1345587514429655595391045275287275011144726508405515441475668672969558916474059180300283332232224,
    1425600311768875784435500985995596991708512043471287461875262894346058824227548574237261546184665,
    1510370917626229192656131765650051598258818640063025169853477724877920162725057355477940086284995,
    1600182246018573034439590295880911292778221538734992556532357810157199055677517668714857945098220,
    1695334033905644471962715900615903733985123077828724104854598929249711057241571660796740252063457,
    1796143841534300486562410265985116450037884786616909467334385712057128506787338006817175321168538,
    1902948112266321677354276306408787680889799232195909373781674699393417330664108809794445896109604,
    2016103295426856761733185379534284087959508151251327408086289326541322255781246296495794876127280,
    2135987035920910082395021706169552114602704522356652769947041607822219725780640550022962086936576,
    2262999434588106562361857044647761120340016297428824937906193055073909114169941446860383373403209,
    2397564383502050974715191815493016499208083279645697915772628001635114249341420169706771585478156 ]

/-- How many periods, modulo one, the tone of pitch class p has run through at sample j: freq(p) * j / FS
(40_wavetable.md R69, R70), in fixed point. -/
def fixedPhase (fs : Nat) (baseFreq : Word) (p j : Nat) : Nat :=
  sampleUnits baseFreq * fixedPitchRatios.getD p 0 * j / (2 ^ 149 * fs) % fixedOne

/-- The series 1 - x^2/(2k+2)(2k+3) * (1 - x^2/(2k+4)(2k+5) * (...)) to `terms` terms, x^2 in fixed point. -/
def sineSeries (square : Nat) : (terms k : Nat) → Nat
  | 0, _ => fixedOne
  | terms + 1, k =>
    fixedOne - square * sineSeries square terms (k + 1) / fixedOne / ((2 * k + 2) * (2 * k + 3))

/-- sin(2 pi x) for x in [0, 1/4], all in fixed point. -/
def quarterSine (x : Nat) : Nat :=
  let angle := fixedTwoPi * x / fixedOne
  angle * sineSeries (angle * angle / fixedOne) 40 0 / fixedOne

/-- 1 + sin(2 pi x) for x in [0, 1), folded to the first quarter, all in fixed point. -/
def onePlusSine (x : Nat) : Nat :=
  let quarter := fixedOne / 4
  if x < quarter then fixedOne + quarterSine x
  else if x < 2 * quarter then fixedOne + quarterSine (2 * quarter - x)
  else if x < 3 * quarter then fixedOne - quarterSine (x - 2 * quarter)
  else fixedOne - quarterSine (fixedOne - x)

/-- divisor * T(sample(p, j)), in fixed point (40_wavetable.md R69 to R71). -/
def fixedIdeal (fs : Nat) (baseFreq : Word) (p j : Nat) : Nat := onePlusSine (fixedPhase fs baseFreq p j)

/-- A word of the reference image: the binary32 value nearest to T(sample(p, j)), ties to even
(40_wavetable.md R73). -/
def referenceWord (fs : Nat) (baseFreq : Word) (t : Transform) (p j : Nat) : Word :=
  nearestBinary32 (fixedIdeal fs baseFreq p j * 2 ^ 149) (t.divisor * fixedOne)

/-- The tolerance 10^-6 of 40_wavetable.md R72 for the word at WT[p][j], in fixed point (log 6). -/
def withinTolerance (fs : Nat) (baseFreq : Word) (t : Transform) (p j : Nat) (w : Word) : Bool :=
  let stored := sampleUnits w * 2 ^ 171 * t.divisor
  let ideal := fixedIdeal fs baseFreq p j
  decide ((max stored ideal - min stored ideal) * 10 ^ 6 ≤ t.divisor * fixedOne)

end Machine

/-- WT[p][j] (40_wavetable.md R68). The units ask for in-range words only (R79); the rest reads 0. -/
def Build.wtWord (b : Build) (p j : Nat) : Word :=
  match b.wt with
  | .reference =>
    if p < Config.pitchClasses ∧ j < b.bs then Machine.referenceWord b.fs b.baseFreq b.transform p j else 0#32
  | .table rows => (rows.getD p []).getD j 0#32

/-- Whether WT_IMAGE is legal: 12 x BS words, each with its sign bit clear, finite, and within 10^-6 of its ideal value
(40_wavetable.md R68, R72). The reference image is (R73), whatever the other parameters. -/
def Build.imageLegal (b : Build) : Bool :=
  match b.wt with
  | .reference => true
  | .table rows =>
    rows.length == Config.pitchClasses && (rows.all fun row => row.length == b.bs && row.all Machine.isSample)
      && (List.range Config.pitchClasses).all fun p => (List.range b.bs).all fun j =>
        Machine.withinTolerance b.fs b.baseFreq b.transform p j (b.wtWord p j)

/-- Whether a block can be built with these parameters (00_scope.md R10, R11). -/
def Build.legal (b : Build) : Bool := b.inRange && b.imageLegal

/-- The block built with every parameter at its default (00_scope.md R10). -/
def Build.default : Build where
  fs := Config.defaultSamplingRate
  bs := Config.defaultBlockSize
  baseFreq := Config.defaultBaseFreq
  transform := .halfOffset
  seqDepth := Config.defaultSeqDepth
  wt := .reference

end Sys2Proof
end

