-- ==== Sys2Proof/Machine/State.lean ====
section
/-! DEFINITION. The state of the block (10_state.md), why a step can stop, and the state after reset. -/

namespace Sys2Proof.Machine

/-- Why a step stops with a fault. No synchronous error of the block is one: those are next states with
STATUS.HALTED = 1 (60_exceptions.md R124). -/
inductive Fault where
  /-- Raised by `step` in a state whose parameters are outside the legal ranges: "elaboration fails", so no such
  block runs (00_scope.md R11; log 14). Safe: no built block is in such a state. -/
  | elaborationFailed
deriving DecidableEq, Repr

/-- Why a step is refused. -/
inductive Refusal where
  /-- Raised by an arm of `exec` whose instruction has no meaning; no arm does. Safe. -/
  | notModelled (mnemonic : String)
  /-- Raised by `step` in a clock cycle with `bus_we` and `bus_re` both 1, which the block does not define
  (00_scope.md R9, 70_reset_and_hazards.md R151, U11; log 13). Safe. -/
  | bothStrobes
deriving DecidableEq, Repr

/-- One clock cycle as the outside world and the engine's latency give it: the input pins (00_scope.md R9), and
whether the command in flight, if any, completes in it (44_control.md R115; log 3). -/
structure Cycle where
  /-- `rst`. -/
  rst : Bool
  /-- `block_tick`. -/
  blockTick : Bool
  /-- `bus_we`. -/
  busWe : Bool
  /-- `bus_re`. -/
  busRe : Bool
  /-- `bus_addr`, a word address. -/
  busAddr : BitVec 18
  /-- `bus_wdata`. -/
  busWdata : Word
  /-- The engine's completion step falls in this cycle. -/
  completes : Bool
deriving DecidableEq, Repr

/-- A cycle in which no pin is high and the engine completes what is in flight. -/
def Cycle.quiet : Cycle where
  rst := false
  blockTick := false
  busWe := false
  busRe := false
  busAddr := 0#18
  busWdata := 0#32
  completes := true

/-- The whole state: what 10_state.md R14 lists, and the model's own fields, marked as such. -/
structure State where
  /-- The parameter registers PARAM_* and the ROM WT, constant from build (R30, R32). -/
  build : Build
  /-- CMD: the last accepted command word, and the one in flight (R19, R35). -/
  cmd : Word
  /-- STATUS.BUSY: a command is in flight (R20, R35). -/
  busy : Bool
  /-- STATUS.ARMED (R20). -/
  armed : Bool
  /-- STATUS.HALTED (R20). -/
  halted : Bool
  /-- STATUS.ERR_CODE (R20, 60_exceptions.md R121). -/
  errCode : BitVec 4
  /-- ERR_INFO (R21). -/
  errInfo : Word
  /-- IRQ_STATUS (R22). -/
  irqStatus : Word
  /-- IRQ_ENABLE (R23). -/
  irqEnable : Word
  /-- BLOCK_COUNT (R24). -/
  blockCount : Word
  /-- CYCLE_BLOCKS (R25). -/
  cycleBlocks : Word
  /-- SEQ_LEN (R26). -/
  seqLen : Word
  /-- SEQ_RATE_NUM (R27). -/
  seqRateNum : Word
  /-- SEQ_RATE_DEN (R27). -/
  seqRateDen : Word
  /-- CUR_INDEX (R28). -/
  curIndex : Word
  /-- OVERRUN_COUNT (R29). -/
  overrunCount : Word
  /-- NOTE0 (R31). -/
  note0 : Word
  /-- NOTE1 (R31). -/
  note1 : Word
  /-- NOTE2 (R31). -/
  note2 : Word
  /-- The bytes of SEQ and OUT written since their contents were last unspecified, at their bus addresses,
  addresses strictly rising (R33, R34, 20_memory.md R38; log 7, log 8). -/
  mem : List Host.Cell
  /-- The model's own: which unspecified contents SEQ holds where nothing is listed (log 8). -/
  seqFill : Nat
  /-- The model's own: which unspecified contents OUT holds where nothing is listed (log 8). -/
  outFill : Nat
  /-- The model's own: how many one-off free values were drawn (log 9, log 10). -/
  draws : Nat
  /-- The model's own: what `bus_rdata` carried at the last host read (00_scope.md R9; log 11). -/
  busRdata : Word
  /-- The model's own: the clock cycles to come, the next one first (log 2). -/
  inputs : List Cycle
deriving DecidableEq, Repr

/-- A built block right after reset (70_reset_and_hazards.md R141, R142): every register 0, SEQ and OUT
unspecified. The model's own fields start at 0 and with no cycle to come (log 15). -/
def State.resetOf (b : Build) : State where
  build := b
  cmd := 0#32
  busy := false
  armed := false
  halted := false
  errCode := 0#4
  errInfo := 0#32
  irqStatus := 0#32
  irqEnable := 0#32
  blockCount := 0#32
  cycleBlocks := 0#32
  seqLen := 0#32
  seqRateNum := 0#32
  seqRateDen := 0#32
  curIndex := 0#32
  overrunCount := 0#32
  note0 := 0#32
  note1 := 0#32
  note2 := 0#32
  mem := []
  seqFill := 0
  outFill := 0
  draws := 0
  busRdata := 0#32
  inputs := []

/-- The default build right after reset (00_scope.md R10, 70_reset_and_hazards.md R141). -/
def State.reset : State := State.resetOf Build.default

/-- What a step answers. -/
abbrev Answer := Host.Outcome State Fault Refusal

end Sys2Proof.Machine
end

