-- ==== Sys2Proof/Machine/Ops.lean ====
section
/-! DEFINITION. The named operations over memory and registers, the fatal-error action (60_exceptions.md R124) and
reset, the only way back from it (70_reset_and_hazards.md R141). -/

namespace Sys2Proof.Machine

/-! The memory behind the SEQ and OUT windows: bytes at their bus addresses. -/

/-- The canonical form: addresses strictly rising, so that no address is listed twice. -/
def Memory.wf : List Host.Cell → Bool
  | [] => true
  | [_] => true
  | c :: d :: rest => decide (c.1 < d.1) && Memory.wf (d :: rest)

/-- The byte listed at an address, or none: the byte then is unspecified (70_reset_and_hazards.md R142). -/
def Memory.byteAt : List Host.Cell → Nat → Option Byte
  | [], _ => none
  | c :: rest, address => if c.1 = address then some c.2 else Memory.byteAt rest address

/-- Cells that list `bytes` from `start` on. -/
def Memory.cellsFrom : Nat → List Byte → List Host.Cell
  | _, [] => []
  | start, b :: rest => (start, b) :: Memory.cellsFrom (start + 1) rest

/-- The memory with `bytes` stored from `start` on. -/
def Memory.store (mem : List Host.Cell) (start : Nat) (bytes : List Byte) : List Host.Cell :=
  mem.filter (fun c => decide (c.1 < start)) ++ Memory.cellsFrom start bytes
    ++ mem.filter (fun c => decide (start + bytes.length ≤ c.1))

/-- The memory with nothing listed in the `length` bytes from `start` on. -/
def Memory.forget (mem : List Host.Cell) (start length : Nat) : List Host.Cell :=
  mem.filter fun c => decide (c.1 < start) || decide (start + length ≤ c.1)

/-- The bytes of a word, the low byte first (20_memory.md R43: no access sees the order; log 7). -/
def wordBytes (w : Word) : List Byte :=
  [w.extractLsb' 0 8, w.extractLsb' 8 8, w.extractLsb' 16 8, w.extractLsb' 24 8]

/-- The word at a byte address, `fill` giving the bytes that nothing has written. -/
def Memory.wordAt (fill : Nat → Byte) (mem : List Host.Cell) (address : Nat) : Word :=
  let byte := fun k => (Memory.byteAt mem (address + k)).getD (fill (address + k))
  byte 3 ++ byte 2 ++ byte 1 ++ byte 0

/-! The windows (20_memory.md R38). -/

/-- The first byte of the SEQ window. -/
def seqBase : Nat := 0x10000

/-- The first byte of the OUT window. -/
def outBase : Nat := 0x40000

/-- The first byte of the WT window. -/
def wtBase : Nat := 0x80000

/-- The byte address of word w of entry e: 0x10000 + 16e + 4w. -/
def seqAddress (entry word : Nat) : Nat := seqBase + 16 * entry + 4 * word

/-- The byte address of OUT[j]: 0x40000 + 4j. -/
def outAddress (j : Nat) : Nat := outBase + 4 * j

/-- The stored bits of a SEQ word: COUNT in word 0, a note in the others (30_encoding.md R58, R59). -/
def seqMask (word : Nat) : Word := if word = 0 then 0x3#32 else 0x1FF#32

/-- What word w of entry e holds (10_state.md R34); the bits not stored read 0 (30_encoding.md R58, R59, U4). -/
def State.seqWord (s : State) (entry word : Nat) : Word :=
  Memory.wordAt (Config.seqByte s.seqFill) s.mem (seqAddress entry word) &&& seqMask word

/-- OUT[j] (10_state.md R33). -/
def State.outWord (s : State) (j : Nat) : Word :=
  Memory.wordAt (Config.outByte s.outFill) s.mem (outAddress j)

/-- A SEQ word written (20_memory.md R45). -/
def State.setSeqWord (s : State) (entry word : Nat) (v : Word) : State :=
  { s with mem := Memory.store s.mem (seqAddress entry word) (wordBytes (v &&& seqMask word)) }

/-- The whole of OUT written (10_state.md R33). -/
def State.setOut (s : State) (words : List Word) : State :=
  { s with mem := Memory.store s.mem outBase (words.flatMap wordBytes) }

/-- Every word of OUT unspecified anew (60_exceptions.md R126, U7). -/
def State.forgetOut (s : State) : State :=
  { s with mem := Memory.forget s.mem outBase (4 * s.build.bs), outFill := s.outFill + 1 }

/-! Interrupt pending bits (10_state.md R22). -/

/-- IRQ_STATUS.DONE, bit 0. -/
def irqDone : Word := 0x1#32

/-- IRQ_STATUS.FATAL, bit 1. -/
def irqFatal : Word := 0x2#32

/-- IRQ_STATUS.OVERRUN, bit 2. -/
def irqOverrun : Word := 0x4#32

/-- IRQ_STATUS.TICK, bit 3. -/
def irqTick : Word := 0x8#32

/-! The fatal-error action and reset. -/

/-- The error codes the block raises (60_exceptions.md R121); ALLOCATION_ERROR, code 1, is never raised (R123). -/
inductive ErrorCode where
  /-- A chord of zero notes. -/
  | invalidArgument
  /-- A sequencer configuration ARM refuses, or a sequencer command while not armed. -/
  | configurationError
  /-- A used note with PITCH >= 12. -/
  | pitchClassRange
  /-- A word that decodes to no command. -/
  | illegalCommand
  /-- A host write while busy. -/
  | busyWrite
  /-- A host write to the sequencer configuration while armed. -/
  | lockedWrite
  /-- A host write to a reserved address, a read-only register, OUT or WT. -/
  | accessError
deriving DecidableEq, Repr

/-- The code as STATUS.ERR_CODE holds it (60_exceptions.md R121). -/
def ErrorCode.bits : ErrorCode → BitVec 4
  | .invalidArgument => 2#4
  | .configurationError => 3#4
  | .pitchClassRange => 4#4
  | .illegalCommand => 5#4
  | .busyWrite => 6#4
  | .lockedWrite => 7#4
  | .accessError => 8#4

/-- `raise Fatal(code, info)` (60_exceptions.md R124). -/
def State.raiseFatal (s : State) (code : ErrorCode) (info : Word) : State :=
  { s with
    errCode := code.bits
    errInfo := info
    halted := true
    busy := false
    irqStatus := s.irqStatus ||| irqFatal }

/-- A fatal error raised by the command in flight: ERR_INFO holds the command word (10_state.md R21, R121). -/
def State.failCommand (s : State) (code : ErrorCode) : State := s.raiseFatal code s.cmd

/-- Reset (70_reset_and_hazards.md R141, R142): the registers at their reset values, the build unchanged, SEQ and
OUT unspecified anew; what the outside world does next, what it last read and the count of free values drawn are
no state of the block and stay (log 15). -/
def State.applyReset (s : State) : State :=
  { State.resetOf s.build with
    seqFill := s.seqFill + 1
    outFill := s.outFill + 1
    draws := s.draws
    busRdata := s.busRdata
    inputs := s.inputs }

/-! Answers. -/

/-- Goes on from a next state; a stop stays a stop. -/
def andThen (a : Answer) (f : State → Answer) : Answer :=
  match a with
  | .next s => f s
  | .fault r => .fault r
  | .refused r => .refused r

/-- The next state of an answer, or the state before where it stopped. -/
def nextOr (s : State) (a : Answer) : State :=
  match a with
  | .next t => t
  | .fault _ => s
  | .refused _ => s

end Sys2Proof.Machine
end

