-- ==== Sys2Proof/Machine/AddressMap.lean ====
section
/-! DEFINITION. The address map (10_state.md R15, 20_memory.md R38). -/

namespace Sys2Proof.Machine

/-- The registers (10_state.md R15). -/
inductive Reg where
  | cmd
  | status
  | errInfo
  | irqStatus
  | irqEnable
  | blockCount
  | cycleBlocks
  | seqLen
  | seqRateNum
  | seqRateDen
  | curIndex
  | overrunCount
  | paramBlockSize
  | paramSamplingRate
  | paramBaseFreq
  | paramSeqDepth
  | paramTransform
  | note0
  | note1
  | note2
deriving DecidableEq, Repr

/-- How the host may access a location (10_state.md R15). -/
inductive Access where
  /-- A write issues a command. -/
  | issues
  /-- RO: a write raises ACCESS_ERROR. -/
  | readOnly
  /-- W1C: write one to clear. -/
  | writeOneToClear
  /-- RW. -/
  | readWrite
  /-- RW-L: RW, locked while armed. -/
  | lockedWhileArmed
deriving DecidableEq, Repr

/-- The register table (10_state.md R15): register, byte address, access. -/
def registerTable : List (Reg × Nat × Access) :=
  [ (.cmd, 0x00, .issues), (.status, 0x04, .readOnly), (.errInfo, 0x08, .readOnly),
    (.irqStatus, 0x0C, .writeOneToClear), (.irqEnable, 0x10, .readWrite), (.blockCount, 0x14, .readWrite),
    (.cycleBlocks, 0x18, .lockedWhileArmed), (.seqLen, 0x1C, .lockedWhileArmed),
    (.seqRateNum, 0x20, .lockedWhileArmed), (.seqRateDen, 0x24, .lockedWhileArmed),
    (.curIndex, 0x28, .readOnly), (.overrunCount, 0x2C, .readOnly), (.paramBlockSize, 0x30, .readOnly),
    (.paramSamplingRate, 0x34, .readOnly), (.paramBaseFreq, 0x38, .readOnly), (.paramSeqDepth, 0x3C, .readOnly),
    (.paramTransform, 0x40, .readOnly), (.note0, 0x50, .readWrite), (.note1, 0x54, .readWrite),
    (.note2, 0x58, .readWrite) ]

/-- What an address is mapped to (20_memory.md R38). -/
inductive Location where
  /-- A register. -/
  | register (r : Reg) (access : Access)
  /-- Word w of sequence entry e. -/
  | seq (entry word : Nat)
  /-- OUT[j]. -/
  | out (j : Nat)
  /-- WT[p][j]. -/
  | wt (p j : Nat)
  /-- No register and no word. -/
  | reserved
deriving DecidableEq, Repr

/-- The byte address of a bus word address (00_scope.md R9, 20_memory.md R37). -/
def byteAddress (a : BitVec 18) : Nat := 4 * a.toNat

/-- The memory windows of the map, past the registers (20_memory.md R38). -/
def locateWindow (b : Build) (address : Nat) : Location :=
  if seqBase ≤ address ∧ address < 0x20000 then
    let entry := (address - seqBase) / 16
    if entry < b.seqDepth then .seq entry ((address - seqBase) % 16 / 4) else .reserved
  else if outBase ≤ address ∧ address < 0x48000 then
    let j := (address - outBase) / 4
    if j < b.bs then .out j else .reserved
  else if wtBase ≤ address ∧ address < 0xE0000 then
    let j := (address - wtBase) % 0x8000 / 4
    if j < b.bs then .wt ((address - wtBase) / 0x8000) j else .reserved
  else .reserved

/-- What the byte address of a word is mapped to; it does not depend on the phase (20_memory.md R38). -/
def locate (b : Build) (address : Nat) : Location :=
  match registerTable.find? fun row => row.2.1 == address with
  | some row => .register row.1 row.2.2
  | none => locateWindow b address

/-- Whether a write to the location raises ACCESS_ERROR (20_memory.md R45). -/
def Location.refusesWrites : Location → Bool
  | .register _ access => access == .readOnly
  | .seq _ _ => false
  | .out _ => true
  | .wt _ _ => true
  | .reserved => true

/-- Whether the location is RW-L (20_memory.md R45). -/
def Location.locks : Location → Bool
  | .register _ access => access == .lockedWhileArmed
  | .seq _ _ => true
  | .out _ => false
  | .wt _ _ => false
  | .reserved => false

/-- IRQ_STATUS and IRQ_ENABLE, which the host may write while busy and while halted (20_memory.md R45). -/
def Location.isIrqRegister : Location → Bool
  | .register .irqStatus _ => true
  | .register .irqEnable _ => true
  | _ => false

/-- Whether the location is IRQ_STATUS. -/
def Location.isIrqStatus : Location → Bool
  | .register .irqStatus _ => true
  | _ => false

end Sys2Proof.Machine
end

