-- ==== Sys2Proof/Machine/Flags.lean ====
section
/-! DEFINITION. The status flags (10_state.md R20, R22, R36): what completion and `block_tick` set, how the host
clears pending bits, and the two outputs. -/

namespace Sys2Proof.Machine

/-- STATUS as the bus reads it (20_memory.md R46). -/
def State.statusWord (s : State) : Word :=
  0#20 ++ s.errCode ++ 0#5 ++ BitVec.ofBool s.halted ++ BitVec.ofBool s.armed ++ BitVec.ofBool s.busy

/-- A command completes without error: BUSY is cleared and DONE set (44_control.md R114). -/
def State.finish (s : State) : State := { s with busy := false, irqStatus := s.irqStatus ||| irqDone }

/-- The least of v + 1 and 0xFFFFFFFF (60_exceptions.md R130). -/
def saturatingSucc (v : Word) : Word := if v = 0xFFFFFFFF#32 then v else v + 1#32

/-- What `block_tick` does (60_exceptions.md R130, R131). -/
def State.blockTickEvent (s : State) : State :=
  { s with
    irqStatus := s.irqStatus ||| (if s.busy then irqTick ||| irqOverrun else irqTick)
    overrunCount := if s.busy then saturatingSucc s.overrunCount else s.overrunCount }

/-- A host write to IRQ_STATUS clears the pending bits written as 1 (10_state.md R22, 20_memory.md R45). -/
def State.clearPending (s : State) (v : Word) : State := { s with irqStatus := s.irqStatus &&& ~~~(v &&& 0xF#32) }

/-- The output `irq` (60_exceptions.md R132). -/
def State.irq (s : State) : Bool := (s.irqStatus &&& s.irqEnable &&& 0xF#32) != 0#32

/-- The output `fatal` (60_exceptions.md R132). -/
def State.fatal (s : State) : Bool := s.halted

end Sys2Proof.Machine
end

