-- ==== Sys2Proof/Machine/Control.lean ====
section
/-! DEFINITION. The control commands NOP, ARM and DISARM (44_control.md). -/

namespace Sys2Proof.Machine

/-- STATUS.ARMED written. -/
def State.setArmed (s : State) (value : Bool) : State := { s with armed := value }

/-- What ARM checks: 1 <= SEQ_LEN <= SEQ_DEPTH and SEQ_RATE_DEN != 0 (44_control.md R118). -/
def State.configurationOk (s : State) : Bool :=
  s.seqLen != 0#32 && decide (s.seqLen.toNat ≤ s.build.seqDepth) && s.seqRateDen != 0#32

/-- NOP (44_control.md R117, completed by R114). -/
def execNop (s : State) : Answer := .next s.finish

/-- ARM (44_control.md R118, completed by R114). -/
def execArm (s : State) : Answer :=
  if s.armed then .next s.finish
  else if s.configurationOk then .next (s.setArmed true).finish
  else .next (s.failCommand .configurationError)

/-- DISARM (44_control.md R119, completed by R114). -/
def execDisarm (s : State) : Answer := .next (s.setArmed false).finish

end Sys2Proof.Machine
end

