-- ==== Sys2Proof/Syntax.lean ====
section
/-! DEFINITION. The commands, one constructor per row of spec/opcode_table.json (30_encoding.md R62), with their
operands assembled (R60): a pitch and a voice count as the numbers they stand for, an octave as a signed number. -/

namespace Sys2Proof

/-- A command of version 1 of the command set (30_encoding.md R62, R66). -/
inductive Instr where
  /-- NOP (44_control.md R117). -/
  | nop
  /-- SAMPLE p, o (41_resampler.md R83). -/
  | sample (pitch : Nat) (octave : Int)
  /-- MIX n (42_mixer.md R93). -/
  | mix (voices : Nat)
  /-- SEQ_RENDER, with ADV (43_sequencer.md R104). -/
  | seqRender (adv : Bool)
  /-- SEQ_INDEX (43_sequencer.md R103). -/
  | seqIndex
  /-- TICK (43_sequencer.md R105). -/
  | tick
  /-- ARM (44_control.md R118). -/
  | arm
  /-- DISARM (44_control.md R119). -/
  | disarm
deriving DecidableEq, Repr

end Sys2Proof
end

