-- ==== Sys2Proof/WellFormed.lean ====
section
/-! DEFINITION. Which commands have a word: the operand ranges of the syntax (30_encoding.md R60, R61, R66). -/

namespace Sys2Proof

/-- The operand ranges an encoding admits: p in [0, 15], o in [-16, 15], n in [0, 3] (30_encoding.md R66).
A pitch of 12 to 15 is well formed and faults when used (R65). -/
abbrev Instr.WellFormed : Instr → Prop
  | .nop => True
  | .sample pitch octave => pitch ≤ 15 ∧ -16 ≤ octave ∧ octave ≤ 15
  | .mix voices => voices ≤ 3
  | .seqRender _ => True
  | .seqIndex => True
  | .tick => True
  | .arm => True
  | .disarm => True

end Sys2Proof
end

