-- ==== Sys2Proof/Decode.lean ====
section
/-! DEFINITION. The decoder (30_encoding.md R57, R60, R62 to R64), total on every word and rejecting by name, and
after it the encoder (R66). -/

namespace Sys2Proof

/-- Why a word is no command (30_encoding.md R64). -/
inductive Illegal where
  /-- OPC is 0x8 to 0xF. -/
  | reservedOpcode (opc : BitVec 4)
  /-- OPC is 0x0 to 0x7 and a bit outside the row's operand fields is set. -/
  | reservedBits (opc : BitVec 4)
deriving DecidableEq, Repr

/-- A row of the opcode map (30_encoding.md R62): the bits a word must have, and the operands it then gives. -/
structure OpcodeRow where
  mask : Word
  value : Word
  operands : Word → Instr

/-- OPC, bits [31:28] (30_encoding.md R57). -/
def opcField (w : Word) : BitVec 4 := w.extractLsb' 28 4

/-- PITCH, bits [3:0], zero-extended (30_encoding.md R57, R58, R60). -/
def pitchField (w : Word) : Nat := (w.extractLsb' 0 4).toNat

/-- OCT, bits [8:4], read as two's complement (30_encoding.md R57, R58, R60). -/
def octaveField (w : Word) : Int := (w.extractLsb' 4 5).toInt

/-- N, bits [1:0], zero-extended (30_encoding.md R57, R60). -/
def voicesField (w : Word) : Nat := (w.extractLsb' 0 2).toNat

/-- ADV, bit 0 (30_encoding.md R57, R60). -/
def advField (w : Word) : Bool := w.getLsbD 0

/-- The opcode map (30_encoding.md R62). -/
def opcodeRows : List OpcodeRow :=
  [ ⟨0xFFFFFFFF#32, 0x00000000#32, fun _ => .nop⟩,
    ⟨0xFFFFFE00#32, 0x10000000#32, fun w => .sample (pitchField w) (octaveField w)⟩,
    ⟨0xFFFFFFFC#32, 0x20000000#32, fun w => .mix (voicesField w)⟩,
    ⟨0xFFFFFFFE#32, 0x30000000#32, fun w => .seqRender (advField w)⟩,
    ⟨0xFFFFFFFF#32, 0x40000000#32, fun _ => .seqIndex⟩,
    ⟨0xFFFFFFFF#32, 0x50000000#32, fun _ => .tick⟩,
    ⟨0xFFFFFFFF#32, 0x60000000#32, fun _ => .arm⟩,
    ⟨0xFFFFFFFF#32, 0x70000000#32, fun _ => .disarm⟩ ]

/-- Whether a word selects a row (30_encoding.md R62). -/
def OpcodeRow.selects (r : OpcodeRow) (w : Word) : Bool := w &&& r.mask == r.value

/-- The name under which a word that selects no row is rejected (30_encoding.md R64). -/
def illegalName (w : Word) : Illegal :=
  if 8 ≤ (opcField w).toNat then .reservedOpcode (opcField w) else .reservedBits (opcField w)

/-- The command a word stands for, or ILLEGAL by name (30_encoding.md R63, R64). -/
def decode (w : Word) : Except Illegal Instr :=
  match opcodeRows.find? (·.selects w) with
  | some r => .ok (r.operands w)
  | none => .error (illegalName w)

/-- The command the decoder reads from a table row's bits: a command is one 32-bit word on the bus, and the bits
from `nbits` up are 0 (30_encoding.md R56). -/
def decodeTableWord (nbits w : Nat) : Option Instr :=
  match decode (BitVec.ofNat 32 (w % 2 ^ nbits)) with
  | .ok i => some i
  | .error _ => none

/-- A pitch and an octave as the note format's bits [8:0] (30_encoding.md R58, R66). -/
def noteBits (pitch : Nat) (octave : Int) : Word :=
  ((BitVec.ofInt 32 octave &&& 0x1F#32) <<< 4) ||| BitVec.ofNat 32 pitch

/-- The word of a command (30_encoding.md R66). -/
def encode : Instr → Word
  | .nop => 0x00000000#32
  | .sample pitch octave => 0x10000000#32 ||| noteBits pitch octave
  | .mix voices => 0x20000000#32 ||| BitVec.ofNat 32 voices
  | .seqRender adv => if adv then 0x30000001#32 else 0x30000000#32
  | .seqIndex => 0x40000000#32
  | .tick => 0x50000000#32
  | .arm => 0x60000000#32
  | .disarm => 0x70000000#32

end Sys2Proof
end

