-- ==== Sys2Proof/Machine/Operands.lean ====
section
/-! DEFINITION. The operands a command reads beside its word: notes in the NOTE registers and in sequence entries
(30_encoding.md R58 to R60). -/

namespace Sys2Proof.Machine

/-- A note, (pitch class, octave) (00_scope.md section 7). -/
structure Note where
  pitch : Nat
  octave : Int
deriving DecidableEq, Repr

/-- The note a note word holds (30_encoding.md R58, R60). -/
def Note.ofWord (w : Word) : Note := ⟨pitchField w, octaveField w⟩

/-- Whether the pitch class is one of the twelve (00_scope.md R12). -/
def Note.inRange (n : Note) : Bool := decide (n.pitch < Config.pitchClasses)

/-- NOTE0, NOTE1, NOTE2 in order (10_state.md R31). -/
def State.noteRegisters (s : State) : List Word := [s.note0, s.note1, s.note2]

/-- The notes of NOTE0 to NOTE(n-1) (42_mixer.md R93). -/
def State.chordOfRegisters (s : State) (voices : Nat) : List Note := (s.noteRegisters.take voices).map Note.ofWord

/-- COUNT of an entry (30_encoding.md R59). -/
def State.entryCount (s : State) (entry : Nat) : Nat := voicesField (s.seqWord entry 0)

/-- The notes NOTE[0] to NOTE[COUNT-1] of an entry (30_encoding.md R59, 43_sequencer.md R104). -/
def State.chordOfEntry (s : State) (entry : Nat) : List Note :=
  (List.range (s.entryCount entry)).map fun k => Note.ofWord (s.seqWord entry (k + 1))

end Sys2Proof.Machine
end

