-- ==== Sys2Proof/Machine/Resampler.lean ====
section
/-! DEFINITION. The fractional-rate resampler (Note Sampler) and SAMPLE (41_resampler.md). -/

namespace Sys2Proof.Machine

/-- idx(i, o), the source index of output sample i at octave offset o (41_resampler.md R80). -/
def sourceIndex (bs i : Nat) (octave : Int) : Nat :=
  if 0 ≤ octave then i * 2 ^ octave.toNat % bs else i / 2 ^ (-octave).toNat % bs

/-- The ROM word a note contributes to output sample i (41_resampler.md R81, R83). -/
def noteSample (b : Build) (n : Note) (i : Nat) : Word := b.wtWord n.pitch (sourceIndex b.bs i n.octave)

/-- The block of one note, BS words (41_resampler.md R83, R85). -/
def noteBlock (b : Build) (n : Note) : List Word := (List.range b.bs).map (noteSample b n)

/-- SAMPLE p, o (41_resampler.md R83, completed by 44_control.md R114). -/
def execSample (pitch : Nat) (octave : Int) (s : State) : Answer :=
  if Config.pitchClasses ≤ pitch then .next (s.failCommand .pitchClassRange)
  else .next (s.setOut (noteBlock s.build ⟨pitch, octave⟩)).finish

end Sys2Proof.Machine
end

