-- ==== Sys2Proof/Machine/Mixer.lean ====
section
/-! DEFINITION. The chord mixer and normalizer (Chord Mixer) and MIX (42_mixer.md). -/

namespace Sys2Proof.Machine

/-- The sum of words in order, from +0.0 (42_mixer.md R91). -/
def sumInOrder (words : List Word) : Word := words.foldl fadd32 0x00000000#32

/-- The sum divided by the number of words (42_mixer.md R91). -/
def meanInOrder (words : List Word) : Word := fdiv32 (sumInOrder words) (f32 words.length)

/-- mixval(notes, i) (42_mixer.md R91, R92). -/
def mixSample (b : Build) (notes : List Note) (i : Nat) : Word := meanInOrder (notes.map fun n => noteSample b n i)

/-- The block of a chord, BS words, or the error the chord raises, an empty chord's first
(42_mixer.md R93, 43_sequencer.md R104, 60_exceptions.md R129). -/
def chordBlock (b : Build) (notes : List Note) : Except ErrorCode (List Word) :=
  if notes.isEmpty then .error .invalidArgument
  else if notes.all Note.inRange then .ok ((List.range b.bs).map (mixSample b notes))
  else .error .pitchClassRange

/-- MIX n (42_mixer.md R93, completed by 44_control.md R114). -/
def execMix (voices : Nat) (s : State) : Answer :=
  match chordBlock s.build (s.chordOfRegisters voices) with
  | .error code => .next (s.failCommand code)
  | .ok block => .next (s.setOut block).finish

end Sys2Proof.Machine
end

