-- ==== Sys2Proof/Machine/Sequencer.lean ====
section
/-! DEFINITION. The note sequencer and timer (Sequencer): SEQ_INDEX, SEQ_RENDER, TICK (43_sequencer.md). -/

namespace Sys2Proof.Machine

/-- q(B), the elapsed entry count, on unbounded integers (43_sequencer.md R99). -/
def elapsedEntries (b : Build) (rateNum rateDen blocks : Nat) : Nat := blocks * b.bs * rateNum / (b.fs * rateDen)

/-- index(B) with the state's sequence length and rate (43_sequencer.md R100). -/
def State.sequenceIndex (s : State) (blocks : Nat) : Nat :=
  elapsedEntries s.build s.seqRateNum.toNat s.seqRateDen.toNat blocks % s.seqLen.toNat

/-- next(B) for the cycle length C (43_sequencer.md R101). -/
def nextBlockCount (cycleBlocks blocks : Word) : Word :=
  if cycleBlocks ≠ 0#32 ∧ cycleBlocks.toNat ≤ blocks.toNat + 1 then 0#32 else blocks + 1#32

/-- CUR_INDEX written (10_state.md R28). -/
def State.setCurIndex (s : State) (index : Nat) : State := { s with curIndex := BitVec.ofNat 32 index }

/-- BLOCK_COUNT advanced by one block (43_sequencer.md R101). -/
def State.advanceBlockCount (s : State) : State :=
  { s with blockCount := nextBlockCount s.cycleBlocks s.blockCount }

/-- SEQ_INDEX (43_sequencer.md R103, completed by 44_control.md R114). -/
def execSeqIndex (s : State) : Answer :=
  if s.armed then .next (s.setCurIndex (s.sequenceIndex s.blockCount.toNat)).finish
  else .next (s.failCommand .configurationError)

/-- SEQ_RENDER, with ADV (43_sequencer.md R104, completed by 44_control.md R114). -/
def execSeqRender (adv : Bool) (s : State) : Answer :=
  if s.armed then
    let entry := s.sequenceIndex s.blockCount.toNat
    match chordBlock s.build (s.chordOfEntry entry) with
    | .error code => .next (s.failCommand code)
    | .ok block =>
      let rendered := (s.setOut block).setCurIndex entry
      .next (if adv then rendered.advanceBlockCount else rendered).finish
  else .next (s.failCommand .configurationError)

/-- TICK (43_sequencer.md R105, completed by 44_control.md R114). -/
def execTick (s : State) : Answer :=
  if s.armed then .next s.advanceBlockCount.finish
  else .next (s.failCommand .configurationError)

end Sys2Proof.Machine
end

