-- ==== Sys2Proof/Machine/Dispatch.lean ====
section
/-! DEFINITION. The completion of a decoded command (44_control.md R114): one arm per constructor of Instr. -/

namespace Sys2Proof.Machine

def exec (i : Instr) (s : State) : Host.Outcome State Fault Refusal :=
  match i with
  | .nop => Sys2Proof.Machine.execNop s
  | .sample pitch octave => Sys2Proof.Machine.execSample pitch octave s
  | .mix voices => Sys2Proof.Machine.execMix voices s
  | .seqRender adv => Sys2Proof.Machine.execSeqRender adv s
  | .seqIndex => Sys2Proof.Machine.execSeqIndex s
  | .tick => Sys2Proof.Machine.execTick s
  | .arm => Sys2Proof.Machine.execArm s
  | .disarm => Sys2Proof.Machine.execDisarm s

end Sys2Proof.Machine
end

