-- ==== Sys2Proof/Machine/Engine.lean ====
section
/-! DEFINITION. The command engine's completion step (44_control.md R114), and what is left of a command that a
fatal host write aborts (60_exceptions.md R126). -/

namespace Sys2Proof.Machine

/-- complete() (44_control.md R114): decode the word in CMD and perform the command, or raise ILLEGAL_COMMAND. -/
def complete (s : State) : Answer :=
  match decode s.cmd with
  | .ok i => exec i s
  | .error _ => .next (s.failCommand .illegalCommand)

/-- The engine's part of a cycle: the completion step if it falls in the cycle and is enabled (44_control.md R114). -/
def engineTurn (c : Cycle) (s : State) : Answer :=
  if c.completes && s.busy && !s.halted then complete s else .next s

/-- The residue of an aborted command (60_exceptions.md R126, U7, U8): OUT unspecified anew, and CUR_INDEX,
BLOCK_COUNT and STATUS.ARMED each as before or as the command would have left it, freely (log 10, log 22). -/
def State.abortCommand (s : State) : State :=
  let done := nextOr s (complete s)
  { s.forgetOut with
    curIndex := if Config.abortTakesCurIndex s.draws then done.curIndex else s.curIndex
    blockCount := if Config.abortTakesBlockCount s.draws then done.blockCount else s.blockCount
    armed := if Config.abortTakesArmed s.draws then done.armed else s.armed
    draws := s.draws + 1 }

end Sys2Proof.Machine
end

