-- ==== Sys2Proof/Machine/Bus.lean ====
section
/-! DEFINITION. The host's bus accesses, the block's loads and stores (20_memory.md R45, R46). -/

namespace Sys2Proof.Machine

/-- accept(v) (44_control.md R113). -/
def State.accept (s : State) (v : Word) : State := { s with cmd := v, busy := true }

/-- write_reg on a register (20_memory.md R45). A read-only register keeps its value: the write is refused before. -/
def State.writeRegister (s : State) (v : Word) : Reg → State
  | .cmd => s.accept v
  | .irqStatus => s.clearPending v
  | .irqEnable => { s with irqEnable := v &&& 0xF#32 }
  | .blockCount => { s with blockCount := v }
  | .cycleBlocks => { s with cycleBlocks := v }
  | .seqLen => { s with seqLen := v }
  | .seqRateNum => { s with seqRateNum := v }
  | .seqRateDen => { s with seqRateDen := v }
  | .note0 => { s with note0 := v &&& 0x1FF#32 }
  | .note1 => { s with note1 := v &&& 0x1FF#32 }
  | .note2 => { s with note2 := v &&& 0x1FF#32 }
  | .status => s
  | .errInfo => s
  | .curIndex => s
  | .overrunCount => s
  | .paramBlockSize => s
  | .paramSamplingRate => s
  | .paramBaseFreq => s
  | .paramSeqDepth => s
  | .paramTransform => s

/-- write_reg on any location (20_memory.md R45). -/
def State.writeLocation (s : State) (v : Word) : Location → State
  | .register r _ => s.writeRegister v r
  | .seq entry word => s.setSeqWord entry word v
  | .out _ => s
  | .wt _ _ => s
  | .reserved => s

/-- A fatal error raised by a host write: it aborts a command in flight, and ERR_INFO holds the byte address
(60_exceptions.md R124, R126, 10_state.md R21). -/
def State.failWrite (s : State) (code : ErrorCode) (address : Nat) : State :=
  (if s.busy then s.abortCommand else s).raiseFatal code (BitVec.ofNat 32 address)

/-- MemWrite(addr, 4, v) (20_memory.md R45). -/
def State.hostWrite (s : State) (address : Nat) (v : Word) : State :=
  let location := locate s.build address
  if s.halted then
    if location.isIrqRegister then s.writeLocation v location else s
  else if location.refusesWrites then s.failWrite .accessError address
  else if s.busy && !location.isIrqRegister then s.failWrite .busyWrite address
  else if s.armed && location.locks then s.failWrite .lockedWrite address
  else s.writeLocation v location

/-- What a register reads as while its value is defined (20_memory.md R46). -/
def State.registerWord (s : State) : Reg → Word
  | .cmd => s.cmd
  | .status => s.statusWord
  | .errInfo => s.errInfo
  | .irqStatus => s.irqStatus
  | .irqEnable => s.irqEnable
  | .blockCount => s.blockCount
  | .cycleBlocks => s.cycleBlocks
  | .seqLen => s.seqLen
  | .seqRateNum => s.seqRateNum
  | .seqRateDen => s.seqRateDen
  | .curIndex => s.curIndex
  | .overrunCount => s.overrunCount
  | .paramBlockSize => BitVec.ofNat 32 s.build.bs
  | .paramSamplingRate => BitVec.ofNat 32 s.build.fs
  | .paramBaseFreq => s.build.baseFreq
  | .paramSeqDepth => BitVec.ofNat 32 s.build.seqDepth
  | .paramTransform => s.build.transform.code
  | .note0 => s.note0
  | .note1 => s.note1
  | .note2 => s.note2

/-- What a location reads as while its value is defined (20_memory.md R46). -/
def State.locationWord (s : State) : Location → Word
  | .register r _ => s.registerWord r
  | .seq entry word => s.seqWord entry word
  | .out j => s.outWord j
  | .wt p j => s.build.wtWord p j
  | .reserved => 0x00000000#32

/-- The locations whose reads are unspecified while busy (20_memory.md R46, 70_reset_and_hazards.md R146). -/
def Location.unspecifiedWhileBusy : Location → Bool
  | .register .blockCount _ => true
  | .register .curIndex _ => true
  | .out _ => true
  | _ => false

/-- MemRead(addr, 4) (20_memory.md R46): the value goes out on `bus_rdata`; no state of the block changes. An
unspecified value is drawn freely (U6; log 9). -/
def State.hostRead (s : State) (address : Nat) : State :=
  let location := locate s.build address
  if s.busy && location.unspecifiedWhileBusy then
    { s with busRdata := Config.busyRead s.draws, draws := s.draws + 1 }
  else { s with busRdata := s.locationWord location }

end Sys2Proof.Machine
end

