-- ==== Sys2Proof/Machine/Clock.lean ====
section
/-! DEFINITION. One clock cycle: the events of its pins in the order the spec gives (60_exceptions.md R133). -/

namespace Sys2Proof.Machine

/-- Whether the cycle holds a host write to IRQ_STATUS. -/
def Cycle.clearsPending (c : Cycle) (b : Build) : Bool := c.busWe && (locate b (byteAddress c.busAddr)).isIrqStatus

/-- A write-one-to-clear goes ahead of the cycle's events, which is the rule that in its cycle a set wins over it;
it touches nothing else they read (60_exceptions.md R133; log 4). -/
def clearTurn (c : Cycle) (s : State) : State := if c.clearsPending s.build then s.clearPending c.busWdata else s

/-- The environment's part of a cycle (60_exceptions.md R130). -/
def tickTurn (c : Cycle) (s : State) : State := if c.blockTick then s.blockTickEvent else s

/-- The host's part of a cycle, after its other events (20_memory.md R45, R46, 60_exceptions.md R133). -/
def hostTurn (c : Cycle) (s : State) : State :=
  if c.busWe && !c.clearsPending s.build then s.hostWrite (byteAddress c.busAddr) c.busWdata
  else if c.busRe then s.hostRead (byteAddress c.busAddr)
  else s

/-- One clock cycle (60_exceptions.md R133): reset overrides everything, else the completion, then `block_tick`,
then the host access. Both strobes high is refused (00_scope.md R9, U11; log 13). -/
def clockCycle (c : Cycle) (s : State) : Answer :=
  if c.busWe && c.busRe then .refused .bothStrobes
  else if c.rst then .next s.applyReset
  else andThen (engineTurn c (clearTurn c s)) fun t => .next (hostTurn c (tickTurn c t))

/-- The cycle to come; where the outside world gives none, a quiet one, in which what is in flight completes: "The
block never holds a command forever" (44_control.md R115; log 3). -/
def State.nextCycle (s : State) : Cycle := s.inputs.headD Cycle.quiet

/-- The state with the cycle to come taken off. -/
def State.takeCycle (s : State) : State := { s with inputs := s.inputs.tail }

/-- A block whose parameters are legal runs its next cycle; another cannot be built (00_scope.md R11; log 14). -/
def runCycle (s : State) : Answer :=
  if s.build.legal then clockCycle s.nextCycle s.takeCycle else .fault .elaborationFailed

end Sys2Proof.Machine
end

