-- ==== Sys2Proof/Machine/Step.lean ====
section
/-! DEFINITION. One step of the machine, and how the host places one command. -/

namespace Sys2Proof.Machine

/-- One step: one clock cycle (00_scope.md R7, R9, 60_exceptions.md R133). -/
def step (s : State) : Host.Outcome State Fault Refusal := runCycle s

/-- The state with the word accepted into CMD and in flight (44_control.md R113), not halted, and a quiet cycle
next, so that the very next step completes exactly it (log 2). -/
def State.withFetchWord (s : State) (nbits w : Nat) : State :=
  { s with
    cmd := BitVec.ofNat 32 (w % 2 ^ nbits)
    busy := true
    halted := false
    errCode := 0#4
    inputs := Cycle.quiet :: s.inputs }

end Sys2Proof.Machine
end

