-- ==== Sys2Proof/Safety.lean ====
section
/-! DEFINITION. What counts as a safe state, in the terms the claims use: the invariant every step keeps, and the
laws over real numbers that a legal wavetable image obeys (40_wavetable.md R69 to R72). -/

namespace Sys2Proof.Machine

/-- A byte address inside the SEQ words or the OUT words that the build has (20_memory.md R38). -/
def InWindows (b : Build) (address : Nat) : Prop :=
  (seqBase ≤ address ∧ address < seqBase + 16 * b.seqDepth) ∨ (outBase ≤ address ∧ address < outBase + 4 * b.bs)

/-- What holds in every state a built block reaches. -/
structure State.Inv (s : State) : Prop where
  /-- The parameters, the image among them, are legal (00_scope.md R10, R11). -/
  buildLegal : s.build.legal = true
  /-- The memory is in its canonical form. -/
  memCanonical : Memory.wf s.mem = true
  /-- Only bytes of SEQ and OUT are listed (20_memory.md R38). -/
  memMapped : ∀ c ∈ s.mem, InWindows s.build c.1
  /-- STATUS.HALTED = 1 exactly when ERR_CODE != 0 (10_state.md R20). -/
  haltedExactly : s.halted = true ↔ s.errCode ≠ 0#4
  /-- ERR_CODE is a code that is raised: not ALLOCATION_ERROR, not 9 to 15 (60_exceptions.md R121, R123). -/
  codeRaised : s.errCode.toNat ≤ 8 ∧ s.errCode ≠ 1#4
  /-- ERR_INFO is written by a fatal error only (10_state.md R21). -/
  infoOfError : s.errCode = 0#4 → s.errInfo = 0#32
  /-- No command is in flight while halted (60_exceptions.md R127). -/
  haltedIdle : s.halted = true → s.busy = false
  /-- IRQ_STATUS[31:4] read 0 (10_state.md R22). -/
  pendingReserved : s.irqStatus.toNat < 16
  /-- IRQ_ENABLE[31:4] read 0 (10_state.md R23). -/
  enableReserved : s.irqEnable.toNat < 16
  /-- NOTE0[31:9] read 0 (10_state.md R31). -/
  note0Reserved : s.note0.toNat < 512
  /-- NOTE1[31:9] read 0 (10_state.md R31). -/
  note1Reserved : s.note1.toNat < 512
  /-- NOTE2[31:9] read 0 (10_state.md R31). -/
  note2Reserved : s.note2.toNat < 512
  /-- While armed the configuration ARM checked still passes its check (44_control.md R118). -/
  armedChecked : s.armed = true → s.configurationOk = true
  /-- CUR_INDEX names an entry of the sequence memory (10_state.md R28). -/
  indexMapped : s.curIndex.toNat < s.build.seqDepth

/-- Every register whose reads are defined in every phase: its byte address and the value a read returns
(10_state.md R15, R30, 20_memory.md R46; STATUS, BLOCK_COUNT and CUR_INDEX are not in this list). -/
def State.steadyReads (s : State) : List (Nat × Word) :=
  [ (0x00, s.cmd), (0x08, s.errInfo), (0x0C, s.irqStatus), (0x10, s.irqEnable), (0x18, s.cycleBlocks),
    (0x1C, s.seqLen), (0x20, s.seqRateNum), (0x24, s.seqRateDen), (0x2C, s.overrunCount),
    (0x30, BitVec.ofNat 32 s.build.bs), (0x34, BitVec.ofNat 32 s.build.fs), (0x38, s.build.baseFreq),
    (0x3C, BitVec.ofNat 32 s.build.seqDepth),
    (0x40, match s.build.transform with
      | .halfOffset => 0#32
      | .offset => 1#32),
    (0x50, s.note0), (0x54, s.note1), (0x58, s.note2) ]

/-- val(w) of a sample (20_memory.md R44). -/
noncomputable def sampleValue (w : Word) : ℝ := (sampleUnits w : ℝ) / 2 ^ 149

/-- freq(p) (40_wavetable.md R69). -/
noncomputable def pitchFrequency (b : Build) (p : Nat) : ℝ :=
  sampleValue b.baseFreq * (2 : ℝ) ^ (((p : ℝ) - 9) / 12)

/-- sample(p, j) (40_wavetable.md R70). -/
noncomputable def idealSample (b : Build) (p j : Nat) : ℝ :=
  Real.sin (2 * Real.pi * pitchFrequency b p * j / b.fs)

/-- T(x) (40_wavetable.md R71). -/
noncomputable def transformed (t : Transform) (x : ℝ) : ℝ :=
  match t with
  | .halfOffset => (x + 1) / 2
  | .offset => x + 1

/-- The tolerance a legal WT_IMAGE obeys (40_wavetable.md R72). -/
def ObeysTolerance (b : Build) : Prop :=
  ∀ p j, p < Config.pitchClasses → j < b.bs →
    |sampleValue (b.wtWord p j) - transformed b.transform (idealSample b p j)| ≤ 1 / 10 ^ 6

end Sys2Proof.Machine
end

