-- ==== Sys2Proof/Certificates/Slice0/Obligations.lean ====
section
/-! DEFINITION. The statements for the provers. Each docstring names the rule of spec/ it formalises or the sections
it rests on. States are arbitrary unless a hypothesis says otherwise, so every statement speaks of every legal build. -/

open Sys2Proof Sys2Proof.Machine

/-! Encoding. -/

/-- Words written out from the formats of 30_encoding.md R57 (vectors E1 to E19) decode to their commands. -/
def Obligations.SpecWordsDecode : Prop :=
  decode 0b0000_0000000000000000000_00000_0000#32 = .ok .nop
    ∧ decode 0b0001_0000000000000000000_11111_1001#32 = .ok (.sample 9 (-1))
    ∧ decode 0b0010_0000000000000000000_00000_0011#32 = .ok (.mix 3)
    ∧ decode 0b0011_0000000000000000000_00000_0001#32 = .ok (.seqRender true)
    ∧ decode 0b0100_0000000000000000000_00000_0000#32 = .ok .seqIndex
    ∧ decode 0b0101_0000000000000000000_00000_0000#32 = .ok .tick
    ∧ decode 0b0110_0000000000000000000_00000_0000#32 = .ok .arm
    ∧ decode 0b0111_0000000000000000000_00000_0000#32 = .ok .disarm
    ∧ decode 0b0001_0000000000000000001_00000_1001#32 = .error (.reservedBits 1#4)

/-- Decoding the word of any well-formed command gives it back, with every operand (30_encoding.md R57, R60, R62, R66). -/
def Obligations.DecodeOfEncode : Prop := ∀ i : Instr, i.WellFormed → decode (encode i) = .ok i

/-- Whatever a word decodes to is well formed and is encoded by that word alone (30_encoding.md R62, R63). -/
def Obligations.EncodeOfDecode : Prop := ∀ (w : Word) (i : Instr), decode w = .ok i → i.WellFormed ∧ encode i = w

/-- 30_encoding.md R64: which words are illegal, that there are 523 others, and that an illegal word in flight
raises ILLEGAL_COMMAND whatever the state. -/
def Obligations.IllegalWords : Prop :=
  (∀ w : Word, (∃ r, decode w = .error r) ↔
    (8 ≤ w.toNat / 2 ^ 28
      ∨ (w.toNat / 2 ^ 28 = 1 ∧ w &&& 0x0FFFFE00#32 ≠ 0#32)
      ∨ (w.toNat / 2 ^ 28 = 2 ∧ w &&& 0x0FFFFFFC#32 ≠ 0#32)
      ∨ (w.toNat / 2 ^ 28 = 3 ∧ w &&& 0x0FFFFFFE#32 ≠ 0#32)
      ∨ (w.toNat / 2 ^ 28 ∈ [0, 4, 5, 6, 7] ∧ w &&& 0x0FFFFFFF#32 ≠ 0#32)))
  ∧ (∃ legal : List Word, legal.Nodup ∧ legal.length = 2 ^ 9 + 2 ^ 2 + 2 ^ 1 + 5
      ∧ ∀ w, w ∈ legal ↔ ∃ i, decode w = .ok i)
  ∧ (∀ (s : State) (r : Illegal), decode s.cmd = .error r →
      complete s = .next { s with errCode := 5#4, errInfo := s.cmd, halted := true, busy := false,
                                  irqStatus := s.irqStatus ||| 0x2#32 })

/-- The note format holds every pitch in [0, 15] and octave in [-16, 15] (30_encoding.md R58, R60). -/
def Obligations.NoteFormat : Prop :=
  ∀ (p : Nat) (o : Int), p ≤ 15 → -16 ≤ o → o ≤ 15 → Note.ofWord (noteBits p o) = ⟨p, o⟩

/-! What each command does when it completes (44_control.md R114), with its frame: the next state is the state
before with the named fields changed, and no other. -/

/-- NOP completes in every state and does nothing else (44_control.md R117). -/
def Obligations.NopCompletes : Prop :=
  ∀ s : State, exec .nop s = .next { s with busy := false, irqStatus := s.irqStatus ||| 0x1#32 }

/-- SAMPLE p, o with p < 12 completes; OUT[j] is the ROM word at idx(j, o), every other byte and field is kept
(41_resampler.md R80, R83, R84, R85). -/
def Obligations.SampleRendersNote : Prop :=
  ∀ (s : State) (p : Nat) (o : Int), p < 12 → ∃ t : State,
    exec (.sample p o) s = .next t
    ∧ (∀ j, j < s.build.bs → t.outWord j = s.build.wtWord p
        (if 0 ≤ o then j * 2 ^ o.toNat % s.build.bs else j / 2 ^ (-o).toNat % s.build.bs))
    ∧ (∀ a, a < outAddress 0 ∨ outAddress s.build.bs ≤ a → Memory.byteAt t.mem a = Memory.byteAt s.mem a)
    ∧ t = { s with mem := t.mem, busy := false, irqStatus := s.irqStatus ||| 0x1#32 }

/-- MIX n with 1 <= n <= 3 and legal pitches in NOTE0 to NOTE(n-1) completes; OUT[j] is mixval of those notes, every
other byte and field is kept (42_mixer.md R91, R93, R98). -/
def Obligations.MixRendersChord : Prop :=
  ∀ (s : State) (n : Nat), 1 ≤ n → n ≤ 3 → (∀ w ∈ [s.note0, s.note1, s.note2].take n, w.toNat % 16 < 12) →
    ∃ t : State, exec (.mix n) s = .next t
    ∧ (∀ j, j < s.build.bs →
        t.outWord j = mixSample s.build (([s.note0, s.note1, s.note2].take n).map Note.ofWord) j)
    ∧ (∀ a, a < outAddress 0 ∨ outAddress s.build.bs ≤ a → Memory.byteAt t.mem a = Memory.byteAt s.mem a)
    ∧ t = { s with mem := t.mem, busy := false, irqStatus := s.irqStatus ||| 0x1#32 }

/-- SEQ_RENDER while armed completes when the selected entry has 1 to 3 notes of legal pitches: OUT is their mix,
CUR_INDEX the entry, BLOCK_COUNT advanced with ADV alone, every other byte and field kept (43_sequencer.md R104). -/
def Obligations.SeqRenderRendersEntry : Prop :=
  ∀ (s : State) (adv : Bool) (e : Nat), s.armed = true → e = s.sequenceIndex s.blockCount.toNat →
    1 ≤ s.entryCount e → (∀ k, k < s.entryCount e → (s.seqWord e (k + 1)).toNat % 16 < 12) →
    ∃ t : State, exec (.seqRender adv) s = .next t
    ∧ (∀ j, j < s.build.bs → t.outWord j = mixSample s.build
        ((List.range (s.entryCount e)).map fun k => Note.ofWord (s.seqWord e (k + 1))) j)
    ∧ (∀ a, a < outAddress 0 ∨ outAddress s.build.bs ≤ a → Memory.byteAt t.mem a = Memory.byteAt s.mem a)
    ∧ t = { s with mem := t.mem, busy := false, irqStatus := s.irqStatus ||| 0x1#32, curIndex := BitVec.ofNat 32 e,
                   blockCount := if adv then nextBlockCount s.cycleBlocks s.blockCount else s.blockCount }

/-- SEQ_INDEX while armed completes and sets CUR_INDEX alone (43_sequencer.md R99, R100, R103). -/
def Obligations.SeqIndexSetsCurIndex : Prop :=
  ∀ s : State, s.armed = true → exec .seqIndex s = .next { s with
    busy := false
    irqStatus := s.irqStatus ||| 0x1#32
    curIndex := BitVec.ofNat 32 (s.blockCount.toNat * s.build.bs * s.seqRateNum.toNat
      / (s.build.fs * s.seqRateDen.toNat) % s.seqLen.toNat) }

/-- TICK while armed completes and advances BLOCK_COUNT alone (43_sequencer.md R101, R105). -/
def Obligations.TickAdvancesBlockCount : Prop :=
  ∀ s : State, s.armed = true → exec .tick s = .next { s with
    busy := false
    irqStatus := s.irqStatus ||| 0x1#32
    blockCount := if s.cycleBlocks ≠ 0#32 ∧ s.cycleBlocks.toNat ≤ s.blockCount.toNat + 1 then 0#32
      else s.blockCount + 1#32 }

/-- ARM completes when armed already, without effect, and when 1 <= SEQ_LEN <= SEQ_DEPTH and SEQ_RATE_DEN != 0,
setting ARMED alone (44_control.md R118). -/
def Obligations.ArmEntersArmed : Prop :=
  ∀ s : State,
    s.armed = true ∨ (s.seqLen ≠ 0#32 ∧ s.seqLen.toNat ≤ s.build.seqDepth ∧ s.seqRateDen ≠ 0#32) →
    exec .arm s = .next { s with armed := true, busy := false, irqStatus := s.irqStatus ||| 0x1#32 }

/-- DISARM completes in every state and clears ARMED alone (44_control.md R119). -/
def Obligations.DisarmLeavesArmed : Prop :=
  ∀ s : State, exec .disarm s = .next { s with armed := false, busy := false, irqStatus := s.irqStatus ||| 0x1#32 }

/-! Where the commands raise their errors. -/

/-- SAMPLE with PITCH >= 12 raises PITCH_CLASS_RANGE with ERR_INFO the command word, and does nothing else
(41_resampler.md R83, 60_exceptions.md R121, R124). -/
def Obligations.SampleTrapsOnPitch : Prop :=
  ∀ (s : State) (p : Nat) (o : Int), 12 ≤ p →
    exec (.sample p o) s = .next { s with errCode := 4#4, errInfo := s.cmd, halted := true, busy := false,
                                          irqStatus := s.irqStatus ||| 0x2#32 }

/-- MIX 0 raises INVALID_ARGUMENT whatever the NOTE registers hold; MIX n with a used pitch >= 12 raises
PITCH_CLASS_RANGE (42_mixer.md R93, 60_exceptions.md R129). -/
def Obligations.MixTrapsInOrder : Prop :=
  ∀ s : State,
    exec (.mix 0) s = .next { s with errCode := 2#4, errInfo := s.cmd, halted := true, busy := false,
                                     irqStatus := s.irqStatus ||| 0x2#32 }
    ∧ ∀ n, (∃ w ∈ [s.note0, s.note1, s.note2].take n, 12 ≤ w.toNat % 16) →
      exec (.mix n) s = .next { s with errCode := 4#4, errInfo := s.cmd, halted := true, busy := false,
                                       irqStatus := s.irqStatus ||| 0x2#32 }

/-- CONFIGURATION_ERROR: SEQ_INDEX, SEQ_RENDER and TICK while not armed, whatever else would fail, and ARM while not
armed with SEQ_LEN = 0, SEQ_LEN > SEQ_DEPTH or SEQ_RATE_DEN = 0 (43_sequencer.md R103 to R105, 44_control.md R118,
60_exceptions.md R121, R129). -/
def Obligations.ConfigurationErrors : Prop :=
  ∀ (s : State) (i : Instr), s.armed = false →
    i ∈ [.seqIndex, .seqRender false, .seqRender true, .tick]
      ∨ (i = .arm ∧ (s.seqLen = 0#32 ∨ s.build.seqDepth < s.seqLen.toNat ∨ s.seqRateDen = 0#32)) →
    exec i s = .next { s with errCode := 3#4, errInfo := s.cmd, halted := true, busy := false,
                              irqStatus := s.irqStatus ||| 0x2#32 }

/-- SEQ_RENDER while armed of an entry with COUNT = 0 raises INVALID_ARGUMENT, of one with a used pitch >= 12
PITCH_CLASS_RANGE (43_sequencer.md R104). -/
def Obligations.SeqRenderTrapsOnEntry : Prop :=
  ∀ (s : State) (adv : Bool) (e : Nat), s.armed = true → e = s.sequenceIndex s.blockCount.toNat →
    (s.entryCount e = 0 → exec (.seqRender adv) s = .next { s with
      errCode := 2#4, errInfo := s.cmd, halted := true, busy := false, irqStatus := s.irqStatus ||| 0x2#32 })
    ∧ ((∃ k, k < s.entryCount e ∧ 12 ≤ (s.seqWord e (k + 1)).toNat % 16) →
      exec (.seqRender adv) s = .next { s with
        errCode := 4#4, errInfo := s.cmd, halted := true, busy := false, irqStatus := s.irqStatus ||| 0x2#32 })

/-! The fatal-error action and what it leaves. -/

/-- 60_exceptions.md R124: what `raise Fatal(code, info)` writes, and nothing else. -/
def Obligations.FatalAction : Prop :=
  ∀ (s : State) (code : ErrorCode) (info : Word),
    s.raiseFatal code info = { s with errCode := code.bits, errInfo := info, halted := true, busy := false,
                                      irqStatus := s.irqStatus ||| 0x2#32 }

/-- 60_exceptions.md R125: a command that raises a fatal error changes nothing else, and neither does a host write
that raises one while no command is in flight. -/
def Obligations.FatalErrorsArePrecise : Prop :=
  (∀ (i : Instr) (s t : State), s.halted = false → exec i s = .next t → t.halted = true →
    ∃ code : ErrorCode, t = s.raiseFatal code s.cmd)
  ∧ (∀ (s : State) (address : Nat) (v : Word), s.halted = false → s.busy = false →
    (s.hostWrite address v).halted = true →
    ∃ code : ErrorCode, s.hostWrite address v = s.raiseFatal code (BitVec.ofNat 32 address))

/-- A fatal host write while busy: OUT holds no written byte any more and a new unspecified contents, CUR_INDEX,
BLOCK_COUNT and ARMED are each the old or the aborted command's value, DONE is not set, all else is the fatal
error's (60_exceptions.md R126). The model's choices: how unspecified contents stand in the state (log 8), and that a
command which would itself have failed would have written nothing (log 22). -/
def Obligations.AbortLeavesOldOrNew : Prop :=
  ∀ (s : State) (address : Nat) (v : Word), s.halted = false → s.busy = true →
    (s.hostWrite address v).halted = true →
    let t := s.hostWrite address v
    let done := nextOr s (complete s)
    (t.curIndex = s.curIndex ∨ t.curIndex = done.curIndex)
    ∧ (t.blockCount = s.blockCount ∨ t.blockCount = done.blockCount)
    ∧ (t.armed = s.armed ∨ t.armed = done.armed)
    ∧ t.outFill = s.outFill + 1
    ∧ (∀ a, outAddress 0 ≤ a → a < outAddress s.build.bs → Memory.byteAt t.mem a = none)
    ∧ (∀ a, a < outAddress 0 ∨ outAddress s.build.bs ≤ a → Memory.byteAt t.mem a = Memory.byteAt s.mem a)
    ∧ t.busy = false
    ∧ t.irqStatus = s.irqStatus ||| 0x2#32
    ∧ t = { s with
        busy := false, halted := true, errCode := t.errCode, errInfo := BitVec.ofNat 32 address,
        irqStatus := t.irqStatus, curIndex := t.curIndex, blockCount := t.blockCount, armed := t.armed,
        mem := t.mem, outFill := t.outFill, draws := s.draws + 1 }

/-! The host's accesses. -/

/-- 44_control.md R113: a write to CMD that passes the checks makes the word the one in flight, and nothing else. -/
def Obligations.CommandAccepted : Prop :=
  ∀ (s : State) (v : Word), s.halted = false → s.busy = false →
    s.hostWrite 0x00000 v = { s with cmd := v, busy := true }

/-- The errors of a host write while not halted, in their order: ACCESS_ERROR, BUSY_WRITE, LOCKED_WRITE, each with
ERR_INFO the byte address (20_memory.md R45, 60_exceptions.md R121, R129). -/
def Obligations.HostWriteErrorsInOrder : Prop :=
  ∀ (s : State) (a : BitVec 18) (v : Word), s.halted = false → s.build.inRange = true →
    let address := byteAddress a
    let inSeq := 0x10000 ≤ address ∧ address < 0x10000 + 16 * s.build.seqDepth
    let writable := address ∈ [0x00, 0x0C, 0x10, 0x14, 0x18, 0x1C, 0x20, 0x24, 0x50, 0x54, 0x58] ∨ inSeq
    let raised := fun code : BitVec 4 => (s.hostWrite address v).errCode = code
      ∧ (s.hostWrite address v).halted = true ∧ (s.hostWrite address v).errInfo = BitVec.ofNat 32 address
    (¬ writable → raised 8#4)
    ∧ (writable → s.busy = true → address ≠ 0x0C → address ≠ 0x10 → raised 6#4)
    ∧ (s.busy = false → s.armed = true → address ∈ [0x18, 0x1C, 0x20, 0x24] ∨ inSeq → raised 7#4)

/-- What a host write stores in each register, wherever it is accepted: in IRQ_STATUS and IRQ_ENABLE always, in
BLOCK_COUNT and NOTE0 to NOTE2 while neither halted nor busy, armed or not, in the four RW-L registers while not armed
either (20_memory.md R45, 60_exceptions.md R127; CMD: CommandAccepted). -/
def Obligations.HostWriteStores : Prop :=
  ∀ (s : State) (v : Word),
    s.hostWrite 0x0C v = { s with irqStatus := s.irqStatus &&& ~~~(v &&& 0xF#32) }
    ∧ s.hostWrite 0x10 v = { s with irqEnable := v &&& 0xF#32 }
    ∧ (s.halted = false → s.busy = false →
      s.hostWrite 0x14 v = { s with blockCount := v }
      ∧ s.hostWrite 0x50 v = { s with note0 := v &&& 0x1FF#32 }
      ∧ s.hostWrite 0x54 v = { s with note1 := v &&& 0x1FF#32 }
      ∧ s.hostWrite 0x58 v = { s with note2 := v &&& 0x1FF#32 }
      ∧ (s.armed = false →
        s.hostWrite 0x18 v = { s with cycleBlocks := v }
        ∧ s.hostWrite 0x1C v = { s with seqLen := v }
        ∧ s.hostWrite 0x20 v = { s with seqRateNum := v }
        ∧ s.hostWrite 0x24 v = { s with seqRateDen := v }))

/-- A write to a word of the sequence memory while neither halted nor busy nor armed: the word then holds its stored
bits, no other byte and no register changes (20_memory.md R38, R45, 30_encoding.md R58, R59; bytes: log 7). -/
def Obligations.SeqWordWritten : Prop :=
  ∀ (s : State) (e w : Nat) (v : Word), s.halted = false → s.busy = false → s.armed = false →
    s.build.inRange = true → e < s.build.seqDepth → w < 4 →
    let address := 0x10000 + 16 * e + 4 * w
    let t := s.hostWrite address v
    t.seqWord e w = v &&& (if w = 0 then 0x3#32 else 0x1FF#32)
    ∧ (∀ a, a < address ∨ address + 4 ≤ a → Memory.byteAt t.mem a = Memory.byteAt s.mem a)
    ∧ t = { s with mem := t.mem }

/-- While halted a host write does nothing but to IRQ_STATUS and IRQ_ENABLE, which act normally
(20_memory.md R45, 60_exceptions.md R127). -/
def Obligations.HaltedIgnoresWrites : Prop :=
  ∀ (s : State) (a : BitVec 18) (v : Word), s.halted = true →
    s.hostWrite (byteAddress a) v =
      if byteAddress a = 0x0C then { s with irqStatus := s.irqStatus &&& ~~~(v &&& 0xF#32) }
      else if byteAddress a = 0x10 then { s with irqEnable := v &&& 0xF#32 }
      else s

/-- A read changes nothing of the block: only what `bus_rdata` carries and the model's count of free values
(20_memory.md R46, R48). -/
def Obligations.ReadsChangeNothing : Prop :=
  ∀ (s : State) (address : Nat),
    s.hostRead address = { s with busRdata := (s.hostRead address).busRdata, draws := (s.hostRead address).draws }

/-- The fields of a read of STATUS, in every phase (10_state.md R20, 20_memory.md R46). -/
def Obligations.StatusReadsItsFields : Prop :=
  ∀ s : State, (s.hostRead 0x04).busRdata.toNat =
    256 * s.errCode.toNat + 4 * s.halted.toNat + 2 * s.armed.toNat + s.busy.toNat

/-- What a read returns: at every register but STATUS (StatusReadsItsFields) its value, in the SEQ and WT windows the
word and at a reserved address 0, in every phase; BLOCK_COUNT, CUR_INDEX and OUT while no command is in flight
(10_state.md R30, R32 to R34, 20_memory.md R38, R46). -/
def Obligations.WindowReads : Prop :=
  ∀ (s : State) (a : BitVec 18), s.build.inRange = true →
    let address := byteAddress a
    let value := (s.hostRead address).busRdata
    (∀ v, (address, v) ∈ s.steadyReads → value = v)
    ∧ (s.busy = false → address = 0x14 → value = s.blockCount)
    ∧ (s.busy = false → address = 0x28 → value = s.curIndex)
    ∧ (s.busy = false → ∀ j, j < s.build.bs → address = 0x40000 + 4 * j → value = s.outWord j)
    ∧ (∀ e w, e < s.build.seqDepth → w < 4 → address = 0x10000 + 16 * e + 4 * w → value = s.seqWord e w)
    ∧ (∀ p j, p < 12 → j < s.build.bs → address = 0x80000 + 0x8000 * p + 4 * j → value = s.build.wtWord p j)
    ∧ ((0x44 ≤ address ∧ address < 0x50) ∨ (0x5C ≤ address ∧ address < 0x10000)
        ∨ (0x10000 + 16 * s.build.seqDepth ≤ address ∧ address < 0x40000)
        ∨ (0x40000 + 4 * s.build.bs ≤ address ∧ address < 0x80000) ∨ 0xE0000 ≤ address
        ∨ (∃ p, p < 12 ∧ 0x80000 + 0x8000 * p + 4 * s.build.bs ≤ address ∧ address < 0x88000 + 0x8000 * p)
      → value = 0#32)

/-- The model's choice for U6 (log 9): while busy a read of OUT, CUR_INDEX or BLOCK_COUNT returns a value nothing
constrains, for every count of draws; every other register reads its value (70_reset_and_hazards.md R146). -/
def Obligations.BusyReads : Prop :=
  ∀ (s : State), s.busy = true → s.build.inRange = true →
    (∀ address, address = 0x14 ∨ address = 0x28 ∨ (∃ j, j < s.build.bs ∧ address = 0x40000 + 4 * j) →
      (s.hostRead address).busRdata = Config.busyRead s.draws)
    ∧ (s.hostRead 0x04).busRdata = s.statusWord
    ∧ ∀ address v, (address, v) ∈ s.steadyReads → (s.hostRead address).busRdata = v

/-! Interrupts, `block_tick`, reset. -/

/-- 60_exceptions.md R130: what `block_tick` does, in every phase. -/
def Obligations.BlockTickAction : Prop :=
  ∀ s : State,
    (s.busy = false → s.blockTickEvent = { s with irqStatus := s.irqStatus ||| 0x8#32 })
    ∧ (s.busy = true → s.blockTickEvent = { s with
        irqStatus := s.irqStatus ||| 0xC#32
        overrunCount := BitVec.ofNat 32 (min (s.overrunCount.toNat + 1) 0xFFFFFFFF) })

/-- The output `irq` is high exactly when a pending bit is enabled, and `fatal` is STATUS.HALTED (60_exceptions.md R132). -/
def Obligations.InterruptOutputs : Prop :=
  ∀ s : State,
    (s.irq = true ↔ ∃ k, k < 4 ∧ s.irqStatus.getLsbD k = true ∧ s.irqEnable.getLsbD k = true)
    ∧ s.fatal = s.halted

/-- In one clock cycle a set wins over a write-one-to-clear: whatever the host writes to IRQ_STATUS in their cycle, TICK
of a `block_tick`, OVERRUN of one while the command stays in flight, DONE of a command that completes and FATAL of one
that fails are set; each of the four bits that no event of the cycle sets is cleared by a 1 (60_exceptions.md R133;
log 4). -/
def Obligations.SetWinsOverClear : Prop :=
  ∀ (s t : State) (c : Cycle) (rest : List Cycle), s.inputs = c :: rest → c.rst = false → c.busWe = true →
    byteAddress c.busAddr = 0x0C → step s = .next t →
    let engine := c.completes = true ∧ s.busy = true ∧ s.halted = false
    (c.blockTick = true → t.irqStatus.getLsbD 3 = true)
    ∧ (c.blockTick = true → t.busy = true → t.irqStatus.getLsbD 2 = true)
    ∧ (engine → t.halted = true → t.irqStatus.getLsbD 1 = true)
    ∧ (engine → t.halted = false → t.irqStatus.getLsbD 0 = true)
    ∧ (c.busWdata.getLsbD 3 = true → c.blockTick = false → t.irqStatus.getLsbD 3 = false)
    ∧ (c.busWdata.getLsbD 2 = true → ¬ (c.blockTick = true ∧ t.busy = true) → t.irqStatus.getLsbD 2 = false)
    ∧ (c.busWdata.getLsbD 1 = true → ¬ (engine ∧ t.halted = true) → t.irqStatus.getLsbD 1 = false)
    ∧ (c.busWdata.getLsbD 0 = true → ¬ (engine ∧ t.halted = false) → t.irqStatus.getLsbD 0 = false)

/-- In one clock cycle the completion goes before `block_tick` and the host access: a command completing in the cycle
of a `block_tick` is no overrun, and a host write in it raises no BUSY_WRITE (60_exceptions.md R133). -/
def Obligations.CompletionGoesFirst : Prop :=
  ∀ (s t : State) (c : Cycle) (rest : List Cycle), s.inputs = c :: rest → c.rst = false → c.completes = true →
    s.busy = true → s.halted = false → s.errCode = 0#4 → s.irqStatus.getLsbD 2 = false → step s = .next t →
    t.overrunCount = s.overrunCount ∧ t.irqStatus.getLsbD 2 = false ∧ t.errCode ≠ 6#4

/-- A cycle with `rst` leaves every register at its reset value, the build as it was, nothing written in SEQ and OUT
and their contents unspecified anew (70_reset_and_hazards.md R141, R142). The model's choice (log 15): the cycles to
come, what was last read and the count of draws stay. -/
def Obligations.ResetCycle : Prop :=
  ∀ (s : State) (c : Cycle) (rest : List Cycle), s.inputs = c :: rest → c.rst = true →
    (c.busWe && c.busRe) = false → s.build.legal = true →
    step s = .next {
      build := s.build, cmd := 0#32, busy := false, armed := false, halted := false, errCode := 0#4,
      errInfo := 0#32, irqStatus := 0#32, irqEnable := 0#32, blockCount := 0#32, cycleBlocks := 0#32,
      seqLen := 0#32, seqRateNum := 0#32, seqRateDen := 0#32, curIndex := 0#32, overrunCount := 0#32,
      note0 := 0#32, note1 := 0#32, note2 := 0#32, mem := [], seqFill := s.seqFill + 1,
      outFill := s.outFill + 1, draws := s.draws, busRdata := s.busRdata, inputs := rest }

/-! The step. -/

/-- A quiet cycle in which the engine completes runs exactly the command the word in CMD decodes to, on the state with
that cycle taken off (44_control.md R114). That a cycle says whether the engine completes is the model's choice (log 2,
log 3). -/
def Obligations.StepRunsCommand : Prop :=
  ∀ (s : State) (i : Instr), s.build.legal = true → s.halted = false → s.busy = true →
    s.nextCycle.completes = true → s.nextCycle.rst = false → s.nextCycle.blockTick = false →
    s.nextCycle.busWe = false → s.nextCycle.busRe = false → decode s.cmd = .ok i →
    step s = exec i { s with inputs := s.inputs.tail }

/-- From an idle, unhalted state two cycles take a well-formed command from the host's write of its word to CMD
through its completion (44_control.md R113, R114). That a cycle says whether the engine completes is the model's choice
(log 2, log 3). -/
def Obligations.WriteThenCompletion : Prop :=
  ∀ (s : State) (i : Instr) (w c : Cycle), i.WellFormed → s.build.legal = true → s.halted = false →
    s.busy = false → s.inputs = [w, c] →
    w.rst = false → w.blockTick = false → w.busWe = true → w.busRe = false → w.busAddr = 0#18 →
    w.busWdata = encode i → c.rst = false → c.blockTick = false → c.busWe = false → c.busRe = false →
    c.completes = true →
    core.run 2 s = exec i { s with cmd := encode i, busy := true, inputs := [] }

/-- A legal build's step stops at a cycle with both strobes high, which is refused, and at no other (00_scope.md R9,
70_reset_and_hazards.md R151, U11; log 13). That it is refused with `rst` high too is the model's choice (log 16). -/
def Obligations.StepStopsAtBothStrobesAlone : Prop :=
  ∀ s : State, s.build.legal = true →
    ((s.nextCycle.busWe && s.nextCycle.busRe) = false → ∃ t, step s = .next t ∧ t.inputs = s.inputs.tail)
    ∧ ((s.nextCycle.busWe && s.nextCycle.busRe) = true → step s = .refused .bothStrobes)

/-- No step changes the parameters or the ROM (10_state.md R30, R32, 20_memory.md R47, 40_wavetable.md R74). -/
def Obligations.StepKeepsBuild : Prop := ∀ s t : State, step s = .next t → t.build = s.build

/-- The state after reset meets the invariant (70_reset_and_hazards.md R141). -/
def Obligations.ResetMeetsInvariant : Prop := State.reset.Inv

/-- Every step from a state that meets the invariant leaves one that does: HALTED exactly when ERR_CODE != 0, no
command in flight while halted, reserved bits 0, the armed configuration checked, CUR_INDEX an entry, memory canonical
and inside its windows (10_state.md R20 to R23, R28, R31, 60_exceptions.md R121, R127, 44_control.md R118). -/
def Obligations.StepKeepsInvariant : Prop := ∀ s t : State, s.Inv → step s = .next t → t.Inv

/-- While no `rst` comes, a halted block, with no command in flight (State.Inv says so of it), stays halted with its
first error, its command word, its registers but IRQ_STATUS and IRQ_ENABLE, and its memories as they are, however many
cycles pass (60_exceptions.md R127, R128, R130). -/
def Obligations.HaltedUntilReset : Prop :=
  ∀ (n : Nat) (s t : State), s.halted = true → s.busy = false → (∀ c ∈ s.inputs, c.rst = false) →
    core.run n s = .next t →
    ∃ pending enable rdata,
      t = { s with irqStatus := pending, irqEnable := enable, busRdata := rdata, inputs := s.inputs.drop n }

/-- A command in flight is not held forever: once the cycles to come, all without reset and host writes, have passed
and one more, it has completed or raised its error (44_control.md R115). The model's choice (log 3): a cycle past the
listed ones is quiet and the engine completes in it. -/
def Obligations.InFlightCompletes : Prop :=
  ∀ s : State, s.build.legal = true → s.busy = true → s.halted = false →
    (∀ c ∈ s.inputs, c.rst = false ∧ c.busWe = false) →
    ∃ t, core.run (s.inputs.length + 1) s = .next t ∧ t.busy = false ∧ t.cmd = s.cmd

/-- STATUS.ARMED changes only by reset, or by an ARM or DISARM in flight (60_exceptions.md R134). -/
def Obligations.ArmedChangesOnlyBy : Prop :=
  ∀ s t : State, step s = .next t → t.armed ≠ s.armed →
    s.nextCycle.rst = true
    ∨ (s.busy = true ∧ s.halted = false ∧ (decode s.cmd = .ok .arm ∨ decode s.cmd = .ok .disarm))

/-- The sequencer's position changes only so: BLOCK_COUNT by reset, a host write to it, or a TICK or SEQ_RENDER ADV in
flight, never by `block_tick`; CUR_INDEX by reset, or a SEQ_INDEX or SEQ_RENDER in flight (10_state.md R24, R28,
43_sequencer.md R111, R112, 60_exceptions.md R130). -/
def Obligations.PositionChangesOnlyBy : Prop :=
  ∀ s t : State, step s = .next t →
    (t.blockCount ≠ s.blockCount →
      s.nextCycle.rst = true
      ∨ (s.nextCycle.busWe = true ∧ byteAddress s.nextCycle.busAddr = 0x14)
      ∨ (s.busy = true ∧ s.halted = false ∧ (decode s.cmd = .ok .tick ∨ decode s.cmd = .ok (.seqRender true))))
    ∧ (t.curIndex ≠ s.curIndex →
      s.nextCycle.rst = true
      ∨ (s.busy = true ∧ s.halted = false
          ∧ (decode s.cmd = .ok .seqIndex ∨ ∃ adv, decode s.cmd = .ok (.seqRender adv))))

/-- OUT changes only by reset, by a render in flight, or because a host write aborted the command in flight: what a word
reads as, a listed byte, and the unspecified contents of the rest (10_state.md R33, 60_exceptions.md R126; log 8). -/
def Obligations.OutChangesOnlyBy : Prop :=
  ∀ s t : State, step s = .next t →
    (∃ j, j < s.build.bs ∧ t.outWord j ≠ s.outWord j)
      ∨ (∃ a, outAddress 0 ≤ a ∧ Memory.byteAt t.mem a ≠ Memory.byteAt s.mem a) ∨ t.outFill ≠ s.outFill →
    s.nextCycle.rst = true
    ∨ (s.busy = true ∧ s.halted = false ∧
      ((∃ p o, decode s.cmd = .ok (.sample p o)) ∨ (∃ n, decode s.cmd = .ok (.mix n))
        ∨ (∃ adv, decode s.cmd = .ok (.seqRender adv)) ∨ (s.nextCycle.busWe = true ∧ t.halted = true)))

/-- The sequence memory (what a word reads as, a listed byte, the unspecified contents of the rest) and its configuration
change only by reset, or by a host write after which the block is not armed: while armed they are locked
(10_state.md R34, 20_memory.md R45, R54; log 8). -/
def Obligations.SequenceLockedWhileArmed : Prop :=
  ∀ s t : State, step s = .next t →
    (∃ e w, e < s.build.seqDepth ∧ w < 4 ∧ t.seqWord e w ≠ s.seqWord e w)
      ∨ (∃ a, a < outAddress 0 ∧ Memory.byteAt t.mem a ≠ Memory.byteAt s.mem a) ∨ t.seqFill ≠ s.seqFill
      ∨ t.seqLen ≠ s.seqLen ∨ t.seqRateNum ≠ s.seqRateNum ∨ t.seqRateDen ≠ s.seqRateDen
      ∨ t.cycleBlocks ≠ s.cycleBlocks →
    s.nextCycle.rst = true ∨ (s.nextCycle.busWe = true ∧ t.armed = false)

/-! The resampler. -/

/-- 41_resampler.md R80: the two integer forms of idx, the document's floor(i * 2^o) mod block_size, and the range. -/
def Obligations.SourceIndexRule : Prop :=
  ∀ (bs i : Nat) (o : Int), 1 ≤ bs →
    (0 ≤ o → sourceIndex bs i o = i * 2 ^ o.toNat % bs)
    ∧ (o < 0 → sourceIndex bs i o = (i >>> (-o).toNat) % bs)
    ∧ ((sourceIndex bs i o : Int) = ⌊(i : ℚ) * (2 : ℚ) ^ o⌋ % (bs : Int))
    ∧ sourceIndex bs i o < bs

/-- 41_resampler.md R87: octave doubling between two SAMPLE commands, for k >= 0 at every index, for k < 0 where
2i < BS, and not in general for k < 0. -/
def Obligations.OctaveDoubling : Prop :=
  (∀ (s t u : State) (p : Nat) (k : Int) (i : Nat), p < 12 → i < s.build.bs → 0 ≤ k ∨ 2 * i < s.build.bs →
    exec (.sample p k) s = .next t → exec (.sample p (k + 1)) s = .next u →
    u.outWord i = t.outWord (2 * i % s.build.bs))
  ∧ sourceIndex 1814 1000 0 = 1000 ∧ sourceIndex 1814 (2 * 1000 % 1814) (-1) = 93

/-- With an image within the tolerance, SAMPLE 9, 0 leaves in OUT[i] a value within 10^-6 of the transformed sine of
BASE_FREQ (41_resampler.md R88, 40_wavetable.md R69 to R72). -/
def Obligations.ReferenceToneWithinTolerance : Prop :=
  ∀ s : State, ObeysTolerance s.build → ∃ t : State, exec (.sample 9 0) s = .next t ∧
    ∀ i, i < s.build.bs →
      |sampleValue (t.outWord i)
        - transformed s.build.transform (Real.sin (2 * Real.pi * sampleValue s.build.baseFreq * i / s.build.fs))|
        ≤ 1 / 10 ^ 6

/-! The mixer and its arithmetic. -/

/-- 42_mixer.md R91: mixval of one, two and three notes: the sums in note order from +0.0, then one division by the
binary32 value of the number of notes. -/
def Obligations.MixValue : Prop :=
  ∀ (b : Build) (n0 n1 n2 : Note) (i : Nat),
    let word := fun n : Note => b.wtWord n.pitch (sourceIndex b.bs i n.octave)
    mixSample b [n0] i = fdiv32 (fadd32 0x00000000#32 (word n0)) 0x3F800000#32
    ∧ mixSample b [n0, n1] i = fdiv32 (fadd32 (fadd32 0x00000000#32 (word n0)) (word n1)) 0x40000000#32
    ∧ mixSample b [n0, n1, n2] i =
      fdiv32 (fadd32 (fadd32 (fadd32 0x00000000#32 (word n0)) (word n1)) (word n2)) 0x40400000#32

/-- fadd32 on samples whose sum does not overflow is a sample no other sample is nearer to the exact sum than, and
in a tie the even one (42_mixer.md R89, on the operands of R90). -/
def Obligations.AdditionRoundsToNearest : Prop :=
  ∀ a b : Word, isSample a = true → isSample b = true →
    sampleUnits a + sampleUnits b ≤ (2 ^ 24 - 1) * 2 ^ 253 →
    isSample (fadd32 a b) = true ∧ ∀ w : Word, isSample w = true →
      let exact : Int := sampleUnits a + sampleUnits b
      |(sampleUnits (fadd32 a b) : Int) - exact| ≤ |(sampleUnits w : Int) - exact|
      ∧ (|(sampleUnits (fadd32 a b) : Int) - exact| = |(sampleUnits w : Int) - exact| → w ≠ fadd32 a b →
        (fadd32 a b).getLsbD 0 = false)

/-- fdiv32 on samples, by a divisor above 0 and without overflow, is a sample no other sample is nearer to the exact
quotient than, and in a tie the even one; distances are multiplied by the divisor (42_mixer.md R89, on the operands of
R90). -/
def Obligations.DivisionRoundsToNearest : Prop :=
  ∀ a b : Word, isSample a = true → isSample b = true → sampleUnits b ≠ 0 →
    sampleUnits a * 2 ^ 149 ≤ (2 ^ 24 - 1) * 2 ^ 253 * sampleUnits b →
    isSample (fdiv32 a b) = true ∧ ∀ w : Word, isSample w = true →
      let distance := fun v : Word => |(sampleUnits v : Int) * sampleUnits b - sampleUnits a * 2 ^ 149|
      distance (fdiv32 a b) ≤ distance w
      ∧ (distance (fdiv32 a b) = distance w → w ≠ fdiv32 a b → (fdiv32 a b).getLsbD 0 = false)

/-- 42_mixer.md R94: +0.0 added to a sample and a sample divided by 1.0 are the sample, so MIX 1 leaves in OUT what
SAMPLE of NOTE0 does. -/
def Obligations.OneNoteMixIsSample : Prop :=
  (∀ w : Word, isSample w = true → fadd32 0x00000000#32 w = w ∧ fdiv32 w 0x3F800000#32 = w)
  ∧ ∀ s : State, s.build.imageLegal = true → (Note.ofWord s.note0).pitch < 12 →
    ∃ t u : State, exec (.mix 1) s = .next t
      ∧ exec (.sample (Note.ofWord s.note0).pitch (Note.ofWord s.note0).octave) s = .next u
      ∧ ∀ j, j < s.build.bs → t.outWord j = u.outWord j

/-- The mean of one or two samples is at most the largest, of three at most one unit in the last place above it
(samples are ordered as their words are), and a sample (42_mixer.md R95, R96; samples well below the overflow). -/
def Obligations.MixIsBounded : Prop :=
  ∀ a b c m : Word, a.toNat ≤ m.toNat → b.toNat ≤ m.toNat → c.toNat ≤ m.toNat → m.toNat < 0x7E000000 →
    (meanInOrder [a]).toNat ≤ m.toNat
    ∧ (meanInOrder [a, b]).toNat ≤ m.toNat
    ∧ (meanInOrder [a, b, c]).toNat ≤ m.toNat + 1
    ∧ isSample (meanInOrder [a, b, c]) = true

/-- MIX depends on the ROM and the notes it uses alone: two states that agree on these get the same OUT words
(42_mixer.md R97). -/
def Obligations.MixDependsOnNotesAndRom : Prop :=
  ∀ (s s' t t' : State) (n : Nat), s.build = s'.build →
    [s.note0, s.note1, s.note2].take n = [s'.note0, s'.note1, s'.note2].take n →
    exec (.mix n) s = .next t → exec (.mix n) s' = .next t' → t.halted = false → t'.halted = false →
    ∀ j, j < s.build.bs → t.outWord j = t'.outWord j

/-! The sequencer. -/

/-- q(B) is the document's floor(elapsed_seconds * sequence_rate), exactly, and the index is below SEQ_LEN
(43_sequencer.md R99, R100). -/
def Obligations.ElapsedEntriesExact : Prop :=
  ∀ (s : State) (blocks : Nat), 1 ≤ s.build.fs → s.seqRateDen ≠ 0#32 → s.seqLen ≠ 0#32 →
    (elapsedEntries s.build s.seqRateNum.toNat s.seqRateDen.toNat blocks : Int)
      = ⌊((blocks : ℚ) * s.build.bs / s.build.fs) * ((s.seqRateNum.toNat : ℚ) / s.seqRateDen.toNat)⌋
    ∧ s.sequenceIndex blocks
      = elapsedEntries s.build s.seqRateNum.toNat s.seqRateDen.toNat blocks % s.seqLen.toNat
    ∧ s.sequenceIndex blocks < s.seqLen.toNat

/-- 43_sequencer.md R101: next(B) on the numbers the registers hold. -/
def Obligations.NextBlockCountRule : Prop :=
  ∀ c b : Word, (nextBlockCount c b).toNat =
    if c.toNat ≠ 0 ∧ c.toNat ≤ b.toNat + 1 then 0 else (b.toNat + 1) % 2 ^ 32

/-- 43_sequencer.md R102: with the rate FS / (BS * P) an entry lasts P blocks, and CYCLE_BLOCKS = P * SEQ_LEN makes the
counter wrap exactly at the end of a pass. -/
def Obligations.OneEntryEveryPBlocks : Prop :=
  ∀ (b : Build) (p len blocks : Nat) (c n : Word), b.inRange = true → 1 ≤ p → b.bs * p < 2 ^ 32 → 1 ≤ len →
    c.toNat = p * len →
    elapsedEntries b b.fs (b.bs * p) blocks = blocks / p
    ∧ (n.toNat + 1 < p * len → (nextBlockCount c n).toNat = n.toNat + 1)
    ∧ (n.toNat + 1 = p * len → (nextBlockCount c n).toNat = 0)

/-- Index 0 at block 0; q never falls, and grows by floor(r) or floor(r) + 1 a block, r the entries per block; with
r <= 1 and a rate above 0 every count is reached (43_sequencer.md R107, R108). -/
def Obligations.IndexAdvancesSteadily : Prop :=
  ∀ (b : Build) (num den blocks : Nat), 1 ≤ b.fs → 1 ≤ den →
    let q := elapsedEntries b num den
    let whole := b.bs * num / (b.fs * den)
    q 0 = 0
    ∧ (q (blocks + 1) = q blocks + whole ∨ q (blocks + 1) = q blocks + whole + 1)
    ∧ (1 ≤ b.bs * num → b.bs * num ≤ b.fs * den → ∀ m, ∃ n, q n = m)

/-- When C blocks take exactly one pass, counting modulo C gives the index sequence of an unbounded counter
(43_sequencer.md R109). -/
def Obligations.CycleBlocksLosesNothing : Prop :=
  ∀ (s : State) (c blocks : Nat), 1 ≤ s.build.fs → s.seqRateDen ≠ 0#32 → s.seqLen ≠ 0#32 → 1 ≤ c →
    c * (s.build.bs * s.seqRateNum.toNat) = s.seqLen.toNat * (s.build.fs * s.seqRateDen.toNat) →
    elapsedEntries s.build s.seqRateNum.toNat s.seqRateDen.toNat (blocks + c)
      = elapsedEntries s.build s.seqRateNum.toNat s.seqRateDen.toNat blocks + s.seqLen.toNat
    ∧ s.sequenceIndex (blocks % c) = s.sequenceIndex blocks
end

