-- ==== Sys2Proof/Laws/State.lean ====
section
/-! SUPPORT. What every named update of the state leaves in every field. -/

namespace Sys2Proof.Machine

variable (s : State)

/-! setSeqWord -/

@[simp] theorem State.setSeqWord_build (e w : Nat) (v : Word) : (s.setSeqWord e w v).build = s.build := rfl
@[simp] theorem State.setSeqWord_cmd (e w : Nat) (v : Word) : (s.setSeqWord e w v).cmd = s.cmd := rfl
@[simp] theorem State.setSeqWord_busy (e w : Nat) (v : Word) : (s.setSeqWord e w v).busy = s.busy := rfl
@[simp] theorem State.setSeqWord_armed (e w : Nat) (v : Word) : (s.setSeqWord e w v).armed = s.armed := rfl
@[simp] theorem State.setSeqWord_halted (e w : Nat) (v : Word) : (s.setSeqWord e w v).halted = s.halted := rfl
@[simp] theorem State.setSeqWord_errCode (e w : Nat) (v : Word) : (s.setSeqWord e w v).errCode = s.errCode := rfl
@[simp] theorem State.setSeqWord_errInfo (e w : Nat) (v : Word) : (s.setSeqWord e w v).errInfo = s.errInfo := rfl
@[simp] theorem State.setSeqWord_irqStatus (e w : Nat) (v : Word) : (s.setSeqWord e w v).irqStatus = s.irqStatus := rfl
@[simp] theorem State.setSeqWord_irqEnable (e w : Nat) (v : Word) : (s.setSeqWord e w v).irqEnable = s.irqEnable := rfl
@[simp] theorem State.setSeqWord_blockCount (e w : Nat) (v : Word) : (s.setSeqWord e w v).blockCount =
    s.blockCount := rfl
@[simp] theorem State.setSeqWord_cycleBlocks (e w : Nat) (v : Word) : (s.setSeqWord e w v).cycleBlocks =
    s.cycleBlocks := rfl
@[simp] theorem State.setSeqWord_seqLen (e w : Nat) (v : Word) : (s.setSeqWord e w v).seqLen = s.seqLen := rfl
@[simp] theorem State.setSeqWord_seqRateNum (e w : Nat) (v : Word) : (s.setSeqWord e w v).seqRateNum =
    s.seqRateNum := rfl
@[simp] theorem State.setSeqWord_seqRateDen (e w : Nat) (v : Word) : (s.setSeqWord e w v).seqRateDen =
    s.seqRateDen := rfl
@[simp] theorem State.setSeqWord_curIndex (e w : Nat) (v : Word) : (s.setSeqWord e w v).curIndex = s.curIndex := rfl
@[simp] theorem State.setSeqWord_overrunCount (e w : Nat) (v : Word) : (s.setSeqWord e w v).overrunCount =
    s.overrunCount := rfl
@[simp] theorem State.setSeqWord_note0 (e w : Nat) (v : Word) : (s.setSeqWord e w v).note0 = s.note0 := rfl
@[simp] theorem State.setSeqWord_note1 (e w : Nat) (v : Word) : (s.setSeqWord e w v).note1 = s.note1 := rfl
@[simp] theorem State.setSeqWord_note2 (e w : Nat) (v : Word) : (s.setSeqWord e w v).note2 = s.note2 := rfl
@[simp] theorem State.setSeqWord_mem (e w : Nat) (v : Word) : (s.setSeqWord e w v).mem =
    Memory.store s.mem (seqAddress e w) (wordBytes (v &&& seqMask w)) := rfl
@[simp] theorem State.setSeqWord_seqFill (e w : Nat) (v : Word) : (s.setSeqWord e w v).seqFill = s.seqFill := rfl
@[simp] theorem State.setSeqWord_outFill (e w : Nat) (v : Word) : (s.setSeqWord e w v).outFill = s.outFill := rfl
@[simp] theorem State.setSeqWord_draws (e w : Nat) (v : Word) : (s.setSeqWord e w v).draws = s.draws := rfl
@[simp] theorem State.setSeqWord_busRdata (e w : Nat) (v : Word) : (s.setSeqWord e w v).busRdata = s.busRdata := rfl
@[simp] theorem State.setSeqWord_inputs (e w : Nat) (v : Word) : (s.setSeqWord e w v).inputs = s.inputs := rfl

/-! setOut -/

@[simp] theorem State.setOut_build (ws : List Word) : (s.setOut ws).build = s.build := rfl
@[simp] theorem State.setOut_cmd (ws : List Word) : (s.setOut ws).cmd = s.cmd := rfl
@[simp] theorem State.setOut_busy (ws : List Word) : (s.setOut ws).busy = s.busy := rfl
@[simp] theorem State.setOut_armed (ws : List Word) : (s.setOut ws).armed = s.armed := rfl
@[simp] theorem State.setOut_halted (ws : List Word) : (s.setOut ws).halted = s.halted := rfl
@[simp] theorem State.setOut_errCode (ws : List Word) : (s.setOut ws).errCode = s.errCode := rfl
@[simp] theorem State.setOut_errInfo (ws : List Word) : (s.setOut ws).errInfo = s.errInfo := rfl
@[simp] theorem State.setOut_irqStatus (ws : List Word) : (s.setOut ws).irqStatus = s.irqStatus := rfl
@[simp] theorem State.setOut_irqEnable (ws : List Word) : (s.setOut ws).irqEnable = s.irqEnable := rfl
@[simp] theorem State.setOut_blockCount (ws : List Word) : (s.setOut ws).blockCount = s.blockCount := rfl
@[simp] theorem State.setOut_cycleBlocks (ws : List Word) : (s.setOut ws).cycleBlocks = s.cycleBlocks := rfl
@[simp] theorem State.setOut_seqLen (ws : List Word) : (s.setOut ws).seqLen = s.seqLen := rfl
@[simp] theorem State.setOut_seqRateNum (ws : List Word) : (s.setOut ws).seqRateNum = s.seqRateNum := rfl
@[simp] theorem State.setOut_seqRateDen (ws : List Word) : (s.setOut ws).seqRateDen = s.seqRateDen := rfl
@[simp] theorem State.setOut_curIndex (ws : List Word) : (s.setOut ws).curIndex = s.curIndex := rfl
@[simp] theorem State.setOut_overrunCount (ws : List Word) : (s.setOut ws).overrunCount = s.overrunCount := rfl
@[simp] theorem State.setOut_note0 (ws : List Word) : (s.setOut ws).note0 = s.note0 := rfl
@[simp] theorem State.setOut_note1 (ws : List Word) : (s.setOut ws).note1 = s.note1 := rfl
@[simp] theorem State.setOut_note2 (ws : List Word) : (s.setOut ws).note2 = s.note2 := rfl
@[simp] theorem State.setOut_mem (ws : List Word) : (s.setOut ws).mem =
    Memory.store s.mem outBase (ws.flatMap wordBytes) := rfl
@[simp] theorem State.setOut_seqFill (ws : List Word) : (s.setOut ws).seqFill = s.seqFill := rfl
@[simp] theorem State.setOut_outFill (ws : List Word) : (s.setOut ws).outFill = s.outFill := rfl
@[simp] theorem State.setOut_draws (ws : List Word) : (s.setOut ws).draws = s.draws := rfl
@[simp] theorem State.setOut_busRdata (ws : List Word) : (s.setOut ws).busRdata = s.busRdata := rfl
@[simp] theorem State.setOut_inputs (ws : List Word) : (s.setOut ws).inputs = s.inputs := rfl

/-! forgetOut -/

@[simp] theorem State.forgetOut_build : (s.forgetOut).build = s.build := rfl
@[simp] theorem State.forgetOut_cmd : (s.forgetOut).cmd = s.cmd := rfl
@[simp] theorem State.forgetOut_busy : (s.forgetOut).busy = s.busy := rfl
@[simp] theorem State.forgetOut_armed : (s.forgetOut).armed = s.armed := rfl
@[simp] theorem State.forgetOut_halted : (s.forgetOut).halted = s.halted := rfl
@[simp] theorem State.forgetOut_errCode : (s.forgetOut).errCode = s.errCode := rfl
@[simp] theorem State.forgetOut_errInfo : (s.forgetOut).errInfo = s.errInfo := rfl
@[simp] theorem State.forgetOut_irqStatus : (s.forgetOut).irqStatus = s.irqStatus := rfl
@[simp] theorem State.forgetOut_irqEnable : (s.forgetOut).irqEnable = s.irqEnable := rfl
@[simp] theorem State.forgetOut_blockCount : (s.forgetOut).blockCount = s.blockCount := rfl
@[simp] theorem State.forgetOut_cycleBlocks : (s.forgetOut).cycleBlocks = s.cycleBlocks := rfl
@[simp] theorem State.forgetOut_seqLen : (s.forgetOut).seqLen = s.seqLen := rfl
@[simp] theorem State.forgetOut_seqRateNum : (s.forgetOut).seqRateNum = s.seqRateNum := rfl
@[simp] theorem State.forgetOut_seqRateDen : (s.forgetOut).seqRateDen = s.seqRateDen := rfl
@[simp] theorem State.forgetOut_curIndex : (s.forgetOut).curIndex = s.curIndex := rfl
@[simp] theorem State.forgetOut_overrunCount : (s.forgetOut).overrunCount = s.overrunCount := rfl
@[simp] theorem State.forgetOut_note0 : (s.forgetOut).note0 = s.note0 := rfl
@[simp] theorem State.forgetOut_note1 : (s.forgetOut).note1 = s.note1 := rfl
@[simp] theorem State.forgetOut_note2 : (s.forgetOut).note2 = s.note2 := rfl
@[simp] theorem State.forgetOut_mem : (s.forgetOut).mem = Memory.forget s.mem outBase (4 * s.build.bs) := rfl
@[simp] theorem State.forgetOut_seqFill : (s.forgetOut).seqFill = s.seqFill := rfl
@[simp] theorem State.forgetOut_outFill : (s.forgetOut).outFill = s.outFill + 1 := rfl
@[simp] theorem State.forgetOut_draws : (s.forgetOut).draws = s.draws := rfl
@[simp] theorem State.forgetOut_busRdata : (s.forgetOut).busRdata = s.busRdata := rfl
@[simp] theorem State.forgetOut_inputs : (s.forgetOut).inputs = s.inputs := rfl

/-! raiseFatal -/

@[simp] theorem State.raiseFatal_build (code : ErrorCode) (info : Word) : (s.raiseFatal code info).build =
    s.build := rfl
@[simp] theorem State.raiseFatal_cmd (code : ErrorCode) (info : Word) : (s.raiseFatal code info).cmd = s.cmd := rfl
@[simp] theorem State.raiseFatal_busy (code : ErrorCode) (info : Word) : (s.raiseFatal code info).busy = false := rfl
@[simp] theorem State.raiseFatal_armed (code : ErrorCode) (info : Word) : (s.raiseFatal code info).armed =
    s.armed := rfl
@[simp] theorem State.raiseFatal_halted (code : ErrorCode) (info : Word) : (s.raiseFatal code info).halted =
    true := rfl
@[simp] theorem State.raiseFatal_errCode (code : ErrorCode) (info : Word) : (s.raiseFatal code info).errCode =
    code.bits := rfl
@[simp] theorem State.raiseFatal_errInfo (code : ErrorCode) (info : Word) : (s.raiseFatal code info).errInfo =
    info := rfl
@[simp] theorem State.raiseFatal_irqStatus (code : ErrorCode) (info : Word) : (s.raiseFatal code info).irqStatus =
    s.irqStatus ||| irqFatal := rfl
@[simp] theorem State.raiseFatal_irqEnable (code : ErrorCode) (info : Word) : (s.raiseFatal code info).irqEnable =
    s.irqEnable := rfl
@[simp] theorem State.raiseFatal_blockCount (code : ErrorCode) (info : Word) : (s.raiseFatal code info).blockCount =
    s.blockCount := rfl
@[simp] theorem State.raiseFatal_cycleBlocks (code : ErrorCode) (info : Word) : (s.raiseFatal code info).cycleBlocks =
    s.cycleBlocks := rfl
@[simp] theorem State.raiseFatal_seqLen (code : ErrorCode) (info : Word) : (s.raiseFatal code info).seqLen =
    s.seqLen := rfl
@[simp] theorem State.raiseFatal_seqRateNum (code : ErrorCode) (info : Word) : (s.raiseFatal code info).seqRateNum =
    s.seqRateNum := rfl
@[simp] theorem State.raiseFatal_seqRateDen (code : ErrorCode) (info : Word) : (s.raiseFatal code info).seqRateDen =
    s.seqRateDen := rfl
@[simp] theorem State.raiseFatal_curIndex (code : ErrorCode) (info : Word) : (s.raiseFatal code info).curIndex =
    s.curIndex := rfl
@[simp] theorem State.raiseFatal_overrunCount (code : ErrorCode) (info : Word) : (s.raiseFatal code info).overrunCount =
    s.overrunCount := rfl
@[simp] theorem State.raiseFatal_note0 (code : ErrorCode) (info : Word) : (s.raiseFatal code info).note0 =
    s.note0 := rfl
@[simp] theorem State.raiseFatal_note1 (code : ErrorCode) (info : Word) : (s.raiseFatal code info).note1 =
    s.note1 := rfl
@[simp] theorem State.raiseFatal_note2 (code : ErrorCode) (info : Word) : (s.raiseFatal code info).note2 =
    s.note2 := rfl
@[simp] theorem State.raiseFatal_mem (code : ErrorCode) (info : Word) : (s.raiseFatal code info).mem = s.mem := rfl
@[simp] theorem State.raiseFatal_seqFill (code : ErrorCode) (info : Word) : (s.raiseFatal code info).seqFill =
    s.seqFill := rfl
@[simp] theorem State.raiseFatal_outFill (code : ErrorCode) (info : Word) : (s.raiseFatal code info).outFill =
    s.outFill := rfl
@[simp] theorem State.raiseFatal_draws (code : ErrorCode) (info : Word) : (s.raiseFatal code info).draws =
    s.draws := rfl
@[simp] theorem State.raiseFatal_busRdata (code : ErrorCode) (info : Word) : (s.raiseFatal code info).busRdata =
    s.busRdata := rfl
@[simp] theorem State.raiseFatal_inputs (code : ErrorCode) (info : Word) : (s.raiseFatal code info).inputs =
    s.inputs := rfl

/-! failCommand -/

@[simp] theorem State.failCommand_build (code : ErrorCode) : (s.failCommand code).build = s.build := rfl
@[simp] theorem State.failCommand_cmd (code : ErrorCode) : (s.failCommand code).cmd = s.cmd := rfl
@[simp] theorem State.failCommand_busy (code : ErrorCode) : (s.failCommand code).busy = false := rfl
@[simp] theorem State.failCommand_armed (code : ErrorCode) : (s.failCommand code).armed = s.armed := rfl
@[simp] theorem State.failCommand_halted (code : ErrorCode) : (s.failCommand code).halted = true := rfl
@[simp] theorem State.failCommand_errCode (code : ErrorCode) : (s.failCommand code).errCode = code.bits := rfl
@[simp] theorem State.failCommand_errInfo (code : ErrorCode) : (s.failCommand code).errInfo = s.cmd := rfl
@[simp] theorem State.failCommand_irqStatus (code : ErrorCode) : (s.failCommand code).irqStatus =
    s.irqStatus ||| irqFatal := rfl
@[simp] theorem State.failCommand_irqEnable (code : ErrorCode) : (s.failCommand code).irqEnable = s.irqEnable := rfl
@[simp] theorem State.failCommand_blockCount (code : ErrorCode) : (s.failCommand code).blockCount = s.blockCount := rfl
@[simp] theorem State.failCommand_cycleBlocks (code : ErrorCode) : (s.failCommand code).cycleBlocks =
    s.cycleBlocks := rfl
@[simp] theorem State.failCommand_seqLen (code : ErrorCode) : (s.failCommand code).seqLen = s.seqLen := rfl
@[simp] theorem State.failCommand_seqRateNum (code : ErrorCode) : (s.failCommand code).seqRateNum = s.seqRateNum := rfl
@[simp] theorem State.failCommand_seqRateDen (code : ErrorCode) : (s.failCommand code).seqRateDen = s.seqRateDen := rfl
@[simp] theorem State.failCommand_curIndex (code : ErrorCode) : (s.failCommand code).curIndex = s.curIndex := rfl
@[simp] theorem State.failCommand_overrunCount (code : ErrorCode) : (s.failCommand code).overrunCount =
    s.overrunCount := rfl
@[simp] theorem State.failCommand_note0 (code : ErrorCode) : (s.failCommand code).note0 = s.note0 := rfl
@[simp] theorem State.failCommand_note1 (code : ErrorCode) : (s.failCommand code).note1 = s.note1 := rfl
@[simp] theorem State.failCommand_note2 (code : ErrorCode) : (s.failCommand code).note2 = s.note2 := rfl
@[simp] theorem State.failCommand_mem (code : ErrorCode) : (s.failCommand code).mem = s.mem := rfl
@[simp] theorem State.failCommand_seqFill (code : ErrorCode) : (s.failCommand code).seqFill = s.seqFill := rfl
@[simp] theorem State.failCommand_outFill (code : ErrorCode) : (s.failCommand code).outFill = s.outFill := rfl
@[simp] theorem State.failCommand_draws (code : ErrorCode) : (s.failCommand code).draws = s.draws := rfl
@[simp] theorem State.failCommand_busRdata (code : ErrorCode) : (s.failCommand code).busRdata = s.busRdata := rfl
@[simp] theorem State.failCommand_inputs (code : ErrorCode) : (s.failCommand code).inputs = s.inputs := rfl

/-! finish -/

@[simp] theorem State.finish_build : (s.finish).build = s.build := rfl
@[simp] theorem State.finish_cmd : (s.finish).cmd = s.cmd := rfl
@[simp] theorem State.finish_busy : (s.finish).busy = false := rfl
@[simp] theorem State.finish_armed : (s.finish).armed = s.armed := rfl
@[simp] theorem State.finish_halted : (s.finish).halted = s.halted := rfl
@[simp] theorem State.finish_errCode : (s.finish).errCode = s.errCode := rfl
@[simp] theorem State.finish_errInfo : (s.finish).errInfo = s.errInfo := rfl
@[simp] theorem State.finish_irqStatus : (s.finish).irqStatus = s.irqStatus ||| irqDone := rfl
@[simp] theorem State.finish_irqEnable : (s.finish).irqEnable = s.irqEnable := rfl
@[simp] theorem State.finish_blockCount : (s.finish).blockCount = s.blockCount := rfl
@[simp] theorem State.finish_cycleBlocks : (s.finish).cycleBlocks = s.cycleBlocks := rfl
@[simp] theorem State.finish_seqLen : (s.finish).seqLen = s.seqLen := rfl
@[simp] theorem State.finish_seqRateNum : (s.finish).seqRateNum = s.seqRateNum := rfl
@[simp] theorem State.finish_seqRateDen : (s.finish).seqRateDen = s.seqRateDen := rfl
@[simp] theorem State.finish_curIndex : (s.finish).curIndex = s.curIndex := rfl
@[simp] theorem State.finish_overrunCount : (s.finish).overrunCount = s.overrunCount := rfl
@[simp] theorem State.finish_note0 : (s.finish).note0 = s.note0 := rfl
@[simp] theorem State.finish_note1 : (s.finish).note1 = s.note1 := rfl
@[simp] theorem State.finish_note2 : (s.finish).note2 = s.note2 := rfl
@[simp] theorem State.finish_mem : (s.finish).mem = s.mem := rfl
@[simp] theorem State.finish_seqFill : (s.finish).seqFill = s.seqFill := rfl
@[simp] theorem State.finish_outFill : (s.finish).outFill = s.outFill := rfl
@[simp] theorem State.finish_draws : (s.finish).draws = s.draws := rfl
@[simp] theorem State.finish_busRdata : (s.finish).busRdata = s.busRdata := rfl
@[simp] theorem State.finish_inputs : (s.finish).inputs = s.inputs := rfl

/-! blockTickEvent -/

@[simp] theorem State.blockTickEvent_build : (s.blockTickEvent).build = s.build := rfl
@[simp] theorem State.blockTickEvent_cmd : (s.blockTickEvent).cmd = s.cmd := rfl
@[simp] theorem State.blockTickEvent_busy : (s.blockTickEvent).busy = s.busy := rfl
@[simp] theorem State.blockTickEvent_armed : (s.blockTickEvent).armed = s.armed := rfl
@[simp] theorem State.blockTickEvent_halted : (s.blockTickEvent).halted = s.halted := rfl
@[simp] theorem State.blockTickEvent_errCode : (s.blockTickEvent).errCode = s.errCode := rfl
@[simp] theorem State.blockTickEvent_errInfo : (s.blockTickEvent).errInfo = s.errInfo := rfl
@[simp] theorem State.blockTickEvent_irqStatus : (s.blockTickEvent).irqStatus =
    s.irqStatus ||| (if s.busy then irqTick ||| irqOverrun else irqTick) := rfl
@[simp] theorem State.blockTickEvent_irqEnable : (s.blockTickEvent).irqEnable = s.irqEnable := rfl
@[simp] theorem State.blockTickEvent_blockCount : (s.blockTickEvent).blockCount = s.blockCount := rfl
@[simp] theorem State.blockTickEvent_cycleBlocks : (s.blockTickEvent).cycleBlocks = s.cycleBlocks := rfl
@[simp] theorem State.blockTickEvent_seqLen : (s.blockTickEvent).seqLen = s.seqLen := rfl
@[simp] theorem State.blockTickEvent_seqRateNum : (s.blockTickEvent).seqRateNum = s.seqRateNum := rfl
@[simp] theorem State.blockTickEvent_seqRateDen : (s.blockTickEvent).seqRateDen = s.seqRateDen := rfl
@[simp] theorem State.blockTickEvent_curIndex : (s.blockTickEvent).curIndex = s.curIndex := rfl
@[simp] theorem State.blockTickEvent_overrunCount : (s.blockTickEvent).overrunCount =
    if s.busy then saturatingSucc s.overrunCount else s.overrunCount := rfl
@[simp] theorem State.blockTickEvent_note0 : (s.blockTickEvent).note0 = s.note0 := rfl
@[simp] theorem State.blockTickEvent_note1 : (s.blockTickEvent).note1 = s.note1 := rfl
@[simp] theorem State.blockTickEvent_note2 : (s.blockTickEvent).note2 = s.note2 := rfl
@[simp] theorem State.blockTickEvent_mem : (s.blockTickEvent).mem = s.mem := rfl
@[simp] theorem State.blockTickEvent_seqFill : (s.blockTickEvent).seqFill = s.seqFill := rfl
@[simp] theorem State.blockTickEvent_outFill : (s.blockTickEvent).outFill = s.outFill := rfl
@[simp] theorem State.blockTickEvent_draws : (s.blockTickEvent).draws = s.draws := rfl
@[simp] theorem State.blockTickEvent_busRdata : (s.blockTickEvent).busRdata = s.busRdata := rfl
@[simp] theorem State.blockTickEvent_inputs : (s.blockTickEvent).inputs = s.inputs := rfl

/-! clearPending -/

@[simp] theorem State.clearPending_build (v : Word) : (s.clearPending v).build = s.build := rfl
@[simp] theorem State.clearPending_cmd (v : Word) : (s.clearPending v).cmd = s.cmd := rfl
@[simp] theorem State.clearPending_busy (v : Word) : (s.clearPending v).busy = s.busy := rfl
@[simp] theorem State.clearPending_armed (v : Word) : (s.clearPending v).armed = s.armed := rfl
@[simp] theorem State.clearPending_halted (v : Word) : (s.clearPending v).halted = s.halted := rfl
@[simp] theorem State.clearPending_errCode (v : Word) : (s.clearPending v).errCode = s.errCode := rfl
@[simp] theorem State.clearPending_errInfo (v : Word) : (s.clearPending v).errInfo = s.errInfo := rfl
@[simp] theorem State.clearPending_irqStatus (v : Word) : (s.clearPending v).irqStatus =
    s.irqStatus &&& ~~~(v &&& 0xF#32) := rfl
@[simp] theorem State.clearPending_irqEnable (v : Word) : (s.clearPending v).irqEnable = s.irqEnable := rfl
@[simp] theorem State.clearPending_blockCount (v : Word) : (s.clearPending v).blockCount = s.blockCount := rfl
@[simp] theorem State.clearPending_cycleBlocks (v : Word) : (s.clearPending v).cycleBlocks = s.cycleBlocks := rfl
@[simp] theorem State.clearPending_seqLen (v : Word) : (s.clearPending v).seqLen = s.seqLen := rfl
@[simp] theorem State.clearPending_seqRateNum (v : Word) : (s.clearPending v).seqRateNum = s.seqRateNum := rfl
@[simp] theorem State.clearPending_seqRateDen (v : Word) : (s.clearPending v).seqRateDen = s.seqRateDen := rfl
@[simp] theorem State.clearPending_curIndex (v : Word) : (s.clearPending v).curIndex = s.curIndex := rfl
@[simp] theorem State.clearPending_overrunCount (v : Word) : (s.clearPending v).overrunCount = s.overrunCount := rfl
@[simp] theorem State.clearPending_note0 (v : Word) : (s.clearPending v).note0 = s.note0 := rfl
@[simp] theorem State.clearPending_note1 (v : Word) : (s.clearPending v).note1 = s.note1 := rfl
@[simp] theorem State.clearPending_note2 (v : Word) : (s.clearPending v).note2 = s.note2 := rfl
@[simp] theorem State.clearPending_mem (v : Word) : (s.clearPending v).mem = s.mem := rfl
@[simp] theorem State.clearPending_seqFill (v : Word) : (s.clearPending v).seqFill = s.seqFill := rfl
@[simp] theorem State.clearPending_outFill (v : Word) : (s.clearPending v).outFill = s.outFill := rfl
@[simp] theorem State.clearPending_draws (v : Word) : (s.clearPending v).draws = s.draws := rfl
@[simp] theorem State.clearPending_busRdata (v : Word) : (s.clearPending v).busRdata = s.busRdata := rfl
@[simp] theorem State.clearPending_inputs (v : Word) : (s.clearPending v).inputs = s.inputs := rfl

/-! setCurIndex -/

@[simp] theorem State.setCurIndex_build (n : Nat) : (s.setCurIndex n).build = s.build := rfl
@[simp] theorem State.setCurIndex_cmd (n : Nat) : (s.setCurIndex n).cmd = s.cmd := rfl
@[simp] theorem State.setCurIndex_busy (n : Nat) : (s.setCurIndex n).busy = s.busy := rfl
@[simp] theorem State.setCurIndex_armed (n : Nat) : (s.setCurIndex n).armed = s.armed := rfl
@[simp] theorem State.setCurIndex_halted (n : Nat) : (s.setCurIndex n).halted = s.halted := rfl
@[simp] theorem State.setCurIndex_errCode (n : Nat) : (s.setCurIndex n).errCode = s.errCode := rfl
@[simp] theorem State.setCurIndex_errInfo (n : Nat) : (s.setCurIndex n).errInfo = s.errInfo := rfl
@[simp] theorem State.setCurIndex_irqStatus (n : Nat) : (s.setCurIndex n).irqStatus = s.irqStatus := rfl
@[simp] theorem State.setCurIndex_irqEnable (n : Nat) : (s.setCurIndex n).irqEnable = s.irqEnable := rfl
@[simp] theorem State.setCurIndex_blockCount (n : Nat) : (s.setCurIndex n).blockCount = s.blockCount := rfl
@[simp] theorem State.setCurIndex_cycleBlocks (n : Nat) : (s.setCurIndex n).cycleBlocks = s.cycleBlocks := rfl
@[simp] theorem State.setCurIndex_seqLen (n : Nat) : (s.setCurIndex n).seqLen = s.seqLen := rfl
@[simp] theorem State.setCurIndex_seqRateNum (n : Nat) : (s.setCurIndex n).seqRateNum = s.seqRateNum := rfl
@[simp] theorem State.setCurIndex_seqRateDen (n : Nat) : (s.setCurIndex n).seqRateDen = s.seqRateDen := rfl
@[simp] theorem State.setCurIndex_curIndex (n : Nat) : (s.setCurIndex n).curIndex = BitVec.ofNat 32 n := rfl
@[simp] theorem State.setCurIndex_overrunCount (n : Nat) : (s.setCurIndex n).overrunCount = s.overrunCount := rfl
@[simp] theorem State.setCurIndex_note0 (n : Nat) : (s.setCurIndex n).note0 = s.note0 := rfl
@[simp] theorem State.setCurIndex_note1 (n : Nat) : (s.setCurIndex n).note1 = s.note1 := rfl
@[simp] theorem State.setCurIndex_note2 (n : Nat) : (s.setCurIndex n).note2 = s.note2 := rfl
@[simp] theorem State.setCurIndex_mem (n : Nat) : (s.setCurIndex n).mem = s.mem := rfl
@[simp] theorem State.setCurIndex_seqFill (n : Nat) : (s.setCurIndex n).seqFill = s.seqFill := rfl
@[simp] theorem State.setCurIndex_outFill (n : Nat) : (s.setCurIndex n).outFill = s.outFill := rfl
@[simp] theorem State.setCurIndex_draws (n : Nat) : (s.setCurIndex n).draws = s.draws := rfl
@[simp] theorem State.setCurIndex_busRdata (n : Nat) : (s.setCurIndex n).busRdata = s.busRdata := rfl
@[simp] theorem State.setCurIndex_inputs (n : Nat) : (s.setCurIndex n).inputs = s.inputs := rfl

/-! advanceBlockCount -/

@[simp] theorem State.advanceBlockCount_build : (s.advanceBlockCount).build = s.build := rfl
@[simp] theorem State.advanceBlockCount_cmd : (s.advanceBlockCount).cmd = s.cmd := rfl
@[simp] theorem State.advanceBlockCount_busy : (s.advanceBlockCount).busy = s.busy := rfl
@[simp] theorem State.advanceBlockCount_armed : (s.advanceBlockCount).armed = s.armed := rfl
@[simp] theorem State.advanceBlockCount_halted : (s.advanceBlockCount).halted = s.halted := rfl
@[simp] theorem State.advanceBlockCount_errCode : (s.advanceBlockCount).errCode = s.errCode := rfl
@[simp] theorem State.advanceBlockCount_errInfo : (s.advanceBlockCount).errInfo = s.errInfo := rfl
@[simp] theorem State.advanceBlockCount_irqStatus : (s.advanceBlockCount).irqStatus = s.irqStatus := rfl
@[simp] theorem State.advanceBlockCount_irqEnable : (s.advanceBlockCount).irqEnable = s.irqEnable := rfl
@[simp] theorem State.advanceBlockCount_blockCount : (s.advanceBlockCount).blockCount =
    nextBlockCount s.cycleBlocks s.blockCount := rfl
@[simp] theorem State.advanceBlockCount_cycleBlocks : (s.advanceBlockCount).cycleBlocks = s.cycleBlocks := rfl
@[simp] theorem State.advanceBlockCount_seqLen : (s.advanceBlockCount).seqLen = s.seqLen := rfl
@[simp] theorem State.advanceBlockCount_seqRateNum : (s.advanceBlockCount).seqRateNum = s.seqRateNum := rfl
@[simp] theorem State.advanceBlockCount_seqRateDen : (s.advanceBlockCount).seqRateDen = s.seqRateDen := rfl
@[simp] theorem State.advanceBlockCount_curIndex : (s.advanceBlockCount).curIndex = s.curIndex := rfl
@[simp] theorem State.advanceBlockCount_overrunCount : (s.advanceBlockCount).overrunCount = s.overrunCount := rfl
@[simp] theorem State.advanceBlockCount_note0 : (s.advanceBlockCount).note0 = s.note0 := rfl
@[simp] theorem State.advanceBlockCount_note1 : (s.advanceBlockCount).note1 = s.note1 := rfl
@[simp] theorem State.advanceBlockCount_note2 : (s.advanceBlockCount).note2 = s.note2 := rfl
@[simp] theorem State.advanceBlockCount_mem : (s.advanceBlockCount).mem = s.mem := rfl
@[simp] theorem State.advanceBlockCount_seqFill : (s.advanceBlockCount).seqFill = s.seqFill := rfl
@[simp] theorem State.advanceBlockCount_outFill : (s.advanceBlockCount).outFill = s.outFill := rfl
@[simp] theorem State.advanceBlockCount_draws : (s.advanceBlockCount).draws = s.draws := rfl
@[simp] theorem State.advanceBlockCount_busRdata : (s.advanceBlockCount).busRdata = s.busRdata := rfl
@[simp] theorem State.advanceBlockCount_inputs : (s.advanceBlockCount).inputs = s.inputs := rfl

/-! setArmed -/

@[simp] theorem State.setArmed_build (v : Bool) : (s.setArmed v).build = s.build := rfl
@[simp] theorem State.setArmed_cmd (v : Bool) : (s.setArmed v).cmd = s.cmd := rfl
@[simp] theorem State.setArmed_busy (v : Bool) : (s.setArmed v).busy = s.busy := rfl
@[simp] theorem State.setArmed_armed (v : Bool) : (s.setArmed v).armed = v := rfl
@[simp] theorem State.setArmed_halted (v : Bool) : (s.setArmed v).halted = s.halted := rfl
@[simp] theorem State.setArmed_errCode (v : Bool) : (s.setArmed v).errCode = s.errCode := rfl
@[simp] theorem State.setArmed_errInfo (v : Bool) : (s.setArmed v).errInfo = s.errInfo := rfl
@[simp] theorem State.setArmed_irqStatus (v : Bool) : (s.setArmed v).irqStatus = s.irqStatus := rfl
@[simp] theorem State.setArmed_irqEnable (v : Bool) : (s.setArmed v).irqEnable = s.irqEnable := rfl
@[simp] theorem State.setArmed_blockCount (v : Bool) : (s.setArmed v).blockCount = s.blockCount := rfl
@[simp] theorem State.setArmed_cycleBlocks (v : Bool) : (s.setArmed v).cycleBlocks = s.cycleBlocks := rfl
@[simp] theorem State.setArmed_seqLen (v : Bool) : (s.setArmed v).seqLen = s.seqLen := rfl
@[simp] theorem State.setArmed_seqRateNum (v : Bool) : (s.setArmed v).seqRateNum = s.seqRateNum := rfl
@[simp] theorem State.setArmed_seqRateDen (v : Bool) : (s.setArmed v).seqRateDen = s.seqRateDen := rfl
@[simp] theorem State.setArmed_curIndex (v : Bool) : (s.setArmed v).curIndex = s.curIndex := rfl
@[simp] theorem State.setArmed_overrunCount (v : Bool) : (s.setArmed v).overrunCount = s.overrunCount := rfl
@[simp] theorem State.setArmed_note0 (v : Bool) : (s.setArmed v).note0 = s.note0 := rfl
@[simp] theorem State.setArmed_note1 (v : Bool) : (s.setArmed v).note1 = s.note1 := rfl
@[simp] theorem State.setArmed_note2 (v : Bool) : (s.setArmed v).note2 = s.note2 := rfl
@[simp] theorem State.setArmed_mem (v : Bool) : (s.setArmed v).mem = s.mem := rfl
@[simp] theorem State.setArmed_seqFill (v : Bool) : (s.setArmed v).seqFill = s.seqFill := rfl
@[simp] theorem State.setArmed_outFill (v : Bool) : (s.setArmed v).outFill = s.outFill := rfl
@[simp] theorem State.setArmed_draws (v : Bool) : (s.setArmed v).draws = s.draws := rfl
@[simp] theorem State.setArmed_busRdata (v : Bool) : (s.setArmed v).busRdata = s.busRdata := rfl
@[simp] theorem State.setArmed_inputs (v : Bool) : (s.setArmed v).inputs = s.inputs := rfl

/-! accept -/

@[simp] theorem State.accept_build (v : Word) : (s.accept v).build = s.build := rfl
@[simp] theorem State.accept_cmd (v : Word) : (s.accept v).cmd = v := rfl
@[simp] theorem State.accept_busy (v : Word) : (s.accept v).busy = true := rfl
@[simp] theorem State.accept_armed (v : Word) : (s.accept v).armed = s.armed := rfl
@[simp] theorem State.accept_halted (v : Word) : (s.accept v).halted = s.halted := rfl
@[simp] theorem State.accept_errCode (v : Word) : (s.accept v).errCode = s.errCode := rfl
@[simp] theorem State.accept_errInfo (v : Word) : (s.accept v).errInfo = s.errInfo := rfl
@[simp] theorem State.accept_irqStatus (v : Word) : (s.accept v).irqStatus = s.irqStatus := rfl
@[simp] theorem State.accept_irqEnable (v : Word) : (s.accept v).irqEnable = s.irqEnable := rfl
@[simp] theorem State.accept_blockCount (v : Word) : (s.accept v).blockCount = s.blockCount := rfl
@[simp] theorem State.accept_cycleBlocks (v : Word) : (s.accept v).cycleBlocks = s.cycleBlocks := rfl
@[simp] theorem State.accept_seqLen (v : Word) : (s.accept v).seqLen = s.seqLen := rfl
@[simp] theorem State.accept_seqRateNum (v : Word) : (s.accept v).seqRateNum = s.seqRateNum := rfl
@[simp] theorem State.accept_seqRateDen (v : Word) : (s.accept v).seqRateDen = s.seqRateDen := rfl
@[simp] theorem State.accept_curIndex (v : Word) : (s.accept v).curIndex = s.curIndex := rfl
@[simp] theorem State.accept_overrunCount (v : Word) : (s.accept v).overrunCount = s.overrunCount := rfl
@[simp] theorem State.accept_note0 (v : Word) : (s.accept v).note0 = s.note0 := rfl
@[simp] theorem State.accept_note1 (v : Word) : (s.accept v).note1 = s.note1 := rfl
@[simp] theorem State.accept_note2 (v : Word) : (s.accept v).note2 = s.note2 := rfl
@[simp] theorem State.accept_mem (v : Word) : (s.accept v).mem = s.mem := rfl
@[simp] theorem State.accept_seqFill (v : Word) : (s.accept v).seqFill = s.seqFill := rfl
@[simp] theorem State.accept_outFill (v : Word) : (s.accept v).outFill = s.outFill := rfl
@[simp] theorem State.accept_draws (v : Word) : (s.accept v).draws = s.draws := rfl
@[simp] theorem State.accept_busRdata (v : Word) : (s.accept v).busRdata = s.busRdata := rfl
@[simp] theorem State.accept_inputs (v : Word) : (s.accept v).inputs = s.inputs := rfl

/-! takeCycle -/

@[simp] theorem State.takeCycle_build : (s.takeCycle).build = s.build := rfl
@[simp] theorem State.takeCycle_cmd : (s.takeCycle).cmd = s.cmd := rfl
@[simp] theorem State.takeCycle_busy : (s.takeCycle).busy = s.busy := rfl
@[simp] theorem State.takeCycle_armed : (s.takeCycle).armed = s.armed := rfl
@[simp] theorem State.takeCycle_halted : (s.takeCycle).halted = s.halted := rfl
@[simp] theorem State.takeCycle_errCode : (s.takeCycle).errCode = s.errCode := rfl
@[simp] theorem State.takeCycle_errInfo : (s.takeCycle).errInfo = s.errInfo := rfl
@[simp] theorem State.takeCycle_irqStatus : (s.takeCycle).irqStatus = s.irqStatus := rfl
@[simp] theorem State.takeCycle_irqEnable : (s.takeCycle).irqEnable = s.irqEnable := rfl
@[simp] theorem State.takeCycle_blockCount : (s.takeCycle).blockCount = s.blockCount := rfl
@[simp] theorem State.takeCycle_cycleBlocks : (s.takeCycle).cycleBlocks = s.cycleBlocks := rfl
@[simp] theorem State.takeCycle_seqLen : (s.takeCycle).seqLen = s.seqLen := rfl
@[simp] theorem State.takeCycle_seqRateNum : (s.takeCycle).seqRateNum = s.seqRateNum := rfl
@[simp] theorem State.takeCycle_seqRateDen : (s.takeCycle).seqRateDen = s.seqRateDen := rfl
@[simp] theorem State.takeCycle_curIndex : (s.takeCycle).curIndex = s.curIndex := rfl
@[simp] theorem State.takeCycle_overrunCount : (s.takeCycle).overrunCount = s.overrunCount := rfl
@[simp] theorem State.takeCycle_note0 : (s.takeCycle).note0 = s.note0 := rfl
@[simp] theorem State.takeCycle_note1 : (s.takeCycle).note1 = s.note1 := rfl
@[simp] theorem State.takeCycle_note2 : (s.takeCycle).note2 = s.note2 := rfl
@[simp] theorem State.takeCycle_mem : (s.takeCycle).mem = s.mem := rfl
@[simp] theorem State.takeCycle_seqFill : (s.takeCycle).seqFill = s.seqFill := rfl
@[simp] theorem State.takeCycle_outFill : (s.takeCycle).outFill = s.outFill := rfl
@[simp] theorem State.takeCycle_draws : (s.takeCycle).draws = s.draws := rfl
@[simp] theorem State.takeCycle_busRdata : (s.takeCycle).busRdata = s.busRdata := rfl
@[simp] theorem State.takeCycle_inputs : (s.takeCycle).inputs = s.inputs.tail := rfl

/-! withFetchWord -/

@[simp] theorem State.withFetchWord_build (n w : Nat) : (s.withFetchWord n w).build = s.build := rfl
@[simp] theorem State.withFetchWord_cmd (n w : Nat) : (s.withFetchWord n w).cmd = BitVec.ofNat 32 (w % 2 ^ n) := rfl
@[simp] theorem State.withFetchWord_busy (n w : Nat) : (s.withFetchWord n w).busy = true := rfl
@[simp] theorem State.withFetchWord_armed (n w : Nat) : (s.withFetchWord n w).armed = s.armed := rfl
@[simp] theorem State.withFetchWord_halted (n w : Nat) : (s.withFetchWord n w).halted = false := rfl
@[simp] theorem State.withFetchWord_errCode (n w : Nat) : (s.withFetchWord n w).errCode = 0#4 := rfl
@[simp] theorem State.withFetchWord_errInfo (n w : Nat) : (s.withFetchWord n w).errInfo = s.errInfo := rfl
@[simp] theorem State.withFetchWord_irqStatus (n w : Nat) : (s.withFetchWord n w).irqStatus = s.irqStatus := rfl
@[simp] theorem State.withFetchWord_irqEnable (n w : Nat) : (s.withFetchWord n w).irqEnable = s.irqEnable := rfl
@[simp] theorem State.withFetchWord_blockCount (n w : Nat) : (s.withFetchWord n w).blockCount = s.blockCount := rfl
@[simp] theorem State.withFetchWord_cycleBlocks (n w : Nat) : (s.withFetchWord n w).cycleBlocks = s.cycleBlocks := rfl
@[simp] theorem State.withFetchWord_seqLen (n w : Nat) : (s.withFetchWord n w).seqLen = s.seqLen := rfl
@[simp] theorem State.withFetchWord_seqRateNum (n w : Nat) : (s.withFetchWord n w).seqRateNum = s.seqRateNum := rfl
@[simp] theorem State.withFetchWord_seqRateDen (n w : Nat) : (s.withFetchWord n w).seqRateDen = s.seqRateDen := rfl
@[simp] theorem State.withFetchWord_curIndex (n w : Nat) : (s.withFetchWord n w).curIndex = s.curIndex := rfl
@[simp] theorem State.withFetchWord_overrunCount (n w : Nat) : (s.withFetchWord n w).overrunCount =
    s.overrunCount := rfl
@[simp] theorem State.withFetchWord_note0 (n w : Nat) : (s.withFetchWord n w).note0 = s.note0 := rfl
@[simp] theorem State.withFetchWord_note1 (n w : Nat) : (s.withFetchWord n w).note1 = s.note1 := rfl
@[simp] theorem State.withFetchWord_note2 (n w : Nat) : (s.withFetchWord n w).note2 = s.note2 := rfl
@[simp] theorem State.withFetchWord_mem (n w : Nat) : (s.withFetchWord n w).mem = s.mem := rfl
@[simp] theorem State.withFetchWord_seqFill (n w : Nat) : (s.withFetchWord n w).seqFill = s.seqFill := rfl
@[simp] theorem State.withFetchWord_outFill (n w : Nat) : (s.withFetchWord n w).outFill = s.outFill := rfl
@[simp] theorem State.withFetchWord_draws (n w : Nat) : (s.withFetchWord n w).draws = s.draws := rfl
@[simp] theorem State.withFetchWord_busRdata (n w : Nat) : (s.withFetchWord n w).busRdata = s.busRdata := rfl
@[simp] theorem State.withFetchWord_inputs (n w : Nat) : (s.withFetchWord n w).inputs = Cycle.quiet :: s.inputs := rfl

/-! applyReset -/

@[simp] theorem State.applyReset_build : (s.applyReset).build = s.build := rfl
@[simp] theorem State.applyReset_cmd : (s.applyReset).cmd = 0#32 := rfl
@[simp] theorem State.applyReset_busy : (s.applyReset).busy = false := rfl
@[simp] theorem State.applyReset_armed : (s.applyReset).armed = false := rfl
@[simp] theorem State.applyReset_halted : (s.applyReset).halted = false := rfl
@[simp] theorem State.applyReset_errCode : (s.applyReset).errCode = 0#4 := rfl
@[simp] theorem State.applyReset_errInfo : (s.applyReset).errInfo = 0#32 := rfl
@[simp] theorem State.applyReset_irqStatus : (s.applyReset).irqStatus = 0#32 := rfl
@[simp] theorem State.applyReset_irqEnable : (s.applyReset).irqEnable = 0#32 := rfl
@[simp] theorem State.applyReset_blockCount : (s.applyReset).blockCount = 0#32 := rfl
@[simp] theorem State.applyReset_cycleBlocks : (s.applyReset).cycleBlocks = 0#32 := rfl
@[simp] theorem State.applyReset_seqLen : (s.applyReset).seqLen = 0#32 := rfl
@[simp] theorem State.applyReset_seqRateNum : (s.applyReset).seqRateNum = 0#32 := rfl
@[simp] theorem State.applyReset_seqRateDen : (s.applyReset).seqRateDen = 0#32 := rfl
@[simp] theorem State.applyReset_curIndex : (s.applyReset).curIndex = 0#32 := rfl
@[simp] theorem State.applyReset_overrunCount : (s.applyReset).overrunCount = 0#32 := rfl
@[simp] theorem State.applyReset_note0 : (s.applyReset).note0 = 0#32 := rfl
@[simp] theorem State.applyReset_note1 : (s.applyReset).note1 = 0#32 := rfl
@[simp] theorem State.applyReset_note2 : (s.applyReset).note2 = 0#32 := rfl
@[simp] theorem State.applyReset_mem : (s.applyReset).mem = [] := rfl
@[simp] theorem State.applyReset_seqFill : (s.applyReset).seqFill = s.seqFill + 1 := rfl
@[simp] theorem State.applyReset_outFill : (s.applyReset).outFill = s.outFill + 1 := rfl
@[simp] theorem State.applyReset_draws : (s.applyReset).draws = s.draws := rfl
@[simp] theorem State.applyReset_busRdata : (s.applyReset).busRdata = s.busRdata := rfl
@[simp] theorem State.applyReset_inputs : (s.applyReset).inputs = s.inputs := rfl

/-! abortCommand -/

@[simp] theorem State.abortCommand_build : (s.abortCommand).build = s.build := rfl
@[simp] theorem State.abortCommand_cmd : (s.abortCommand).cmd = s.cmd := rfl
@[simp] theorem State.abortCommand_busy : (s.abortCommand).busy = s.busy := rfl
@[simp] theorem State.abortCommand_armed : (s.abortCommand).armed =
    if Config.abortTakesArmed s.draws then (nextOr s (complete s)).armed else s.armed := rfl
@[simp] theorem State.abortCommand_halted : (s.abortCommand).halted = s.halted := rfl
@[simp] theorem State.abortCommand_errCode : (s.abortCommand).errCode = s.errCode := rfl
@[simp] theorem State.abortCommand_errInfo : (s.abortCommand).errInfo = s.errInfo := rfl
@[simp] theorem State.abortCommand_irqStatus : (s.abortCommand).irqStatus = s.irqStatus := rfl
@[simp] theorem State.abortCommand_irqEnable : (s.abortCommand).irqEnable = s.irqEnable := rfl
@[simp] theorem State.abortCommand_blockCount : (s.abortCommand).blockCount =
    if Config.abortTakesBlockCount s.draws then (nextOr s (complete s)).blockCount else s.blockCount := rfl
@[simp] theorem State.abortCommand_cycleBlocks : (s.abortCommand).cycleBlocks = s.cycleBlocks := rfl
@[simp] theorem State.abortCommand_seqLen : (s.abortCommand).seqLen = s.seqLen := rfl
@[simp] theorem State.abortCommand_seqRateNum : (s.abortCommand).seqRateNum = s.seqRateNum := rfl
@[simp] theorem State.abortCommand_seqRateDen : (s.abortCommand).seqRateDen = s.seqRateDen := rfl
@[simp] theorem State.abortCommand_curIndex : (s.abortCommand).curIndex =
    if Config.abortTakesCurIndex s.draws then (nextOr s (complete s)).curIndex else s.curIndex := rfl
@[simp] theorem State.abortCommand_overrunCount : (s.abortCommand).overrunCount = s.overrunCount := rfl
@[simp] theorem State.abortCommand_note0 : (s.abortCommand).note0 = s.note0 := rfl
@[simp] theorem State.abortCommand_note1 : (s.abortCommand).note1 = s.note1 := rfl
@[simp] theorem State.abortCommand_note2 : (s.abortCommand).note2 = s.note2 := rfl
@[simp] theorem State.abortCommand_mem : (s.abortCommand).mem = Memory.forget s.mem outBase (4 * s.build.bs) := rfl
@[simp] theorem State.abortCommand_seqFill : (s.abortCommand).seqFill = s.seqFill := rfl
@[simp] theorem State.abortCommand_outFill : (s.abortCommand).outFill = s.outFill + 1 := rfl
@[simp] theorem State.abortCommand_draws : (s.abortCommand).draws = s.draws + 1 := rfl
@[simp] theorem State.abortCommand_busRdata : (s.abortCommand).busRdata = s.busRdata := rfl
@[simp] theorem State.abortCommand_inputs : (s.abortCommand).inputs = s.inputs := rfl

end Sys2Proof.Machine
end

