-- ==== Sys2Proof/Laws/Memory.lean ====
section
/-! SUPPORT. What every memory operation does: the byte read after it, and the canonical form it keeps. -/

namespace Sys2Proof.Machine

/-! Canonical form. -/

theorem Memory.wf_iff_pairwise (m : List Host.Cell) :
    Memory.wf m = true ↔ m.Pairwise fun c d => c.1 < d.1 := by
  induction m with
  | nil => simp [Memory.wf]
  | cons c rest ih =>
    cases rest with
    | nil => simp [Memory.wf]
    | cons d rest =>
      rw [Memory.wf, Bool.and_eq_true, decide_eq_true_eq, ih]
      refine ⟨fun h => List.pairwise_cons.2 ⟨?_, h.2⟩, fun h => ?_⟩
      · rintro e (_ | ⟨_, he⟩)
        · exact h.1
        · exact h.1.trans ((List.pairwise_cons.1 h.2).1 e he)
      · exact ⟨(List.pairwise_cons.1 h).1 d (by simp), (List.pairwise_cons.1 h).2⟩

theorem Memory.mem_cellsFrom {start : Nat} {bytes : List Byte} {c : Host.Cell}
    (h : c ∈ Memory.cellsFrom start bytes) : start ≤ c.1 ∧ c.1 < start + bytes.length := by
  induction bytes generalizing start with
  | nil => simp [Memory.cellsFrom] at h
  | cons b rest ih =>
    rcases List.mem_cons.1 h with rfl | h
    · simp
    · have := ih h
      simp only [List.length_cons]
      omega

theorem Memory.wf_cellsFrom (start : Nat) (bytes : List Byte) :
    (Memory.cellsFrom start bytes).Pairwise fun c d => c.1 < d.1 := by
  induction bytes generalizing start with
  | nil => simp [Memory.cellsFrom]
  | cons b rest ih =>
    refine List.pairwise_cons.2 ⟨fun c hc => ?_, ih _⟩
    have := (Memory.mem_cellsFrom hc).1
    simp only
    omega

/-- A store keeps the canonical form. -/
theorem Memory.store_wf {m : List Host.Cell} (h : Memory.wf m = true) (start : Nat) (bytes : List Byte) :
    Memory.wf (Memory.store m start bytes) = true := by
  rw [Memory.wf_iff_pairwise] at h ⊢
  rw [Memory.store, List.append_assoc]
  refine List.pairwise_append.2 ⟨h.filter _, List.pairwise_append.2
    ⟨Memory.wf_cellsFrom _ _, h.filter _, fun c hc d hd => ?_⟩, fun c hc d hd => ?_⟩
  · have := (Memory.mem_cellsFrom hc).2
    simp only [List.mem_filter, decide_eq_true_eq] at hd
    omega
  · simp only [List.mem_filter, decide_eq_true_eq] at hc
    rcases List.mem_append.1 hd with hd | hd
    · have := (Memory.mem_cellsFrom hd).1
      omega
    · simp only [List.mem_filter, decide_eq_true_eq] at hd
      omega

/-- Forgetting keeps the canonical form. -/
theorem Memory.forget_wf {m : List Host.Cell} (h : Memory.wf m = true) (start length : Nat) :
    Memory.wf (Memory.forget m start length) = true := by
  rw [Memory.wf_iff_pairwise] at h ⊢
  exact h.filter _

/-- What a store lists: what was listed, and the stored bytes' addresses. -/
theorem Memory.mem_store {m : List Host.Cell} {start : Nat} {bytes : List Byte} {c : Host.Cell}
    (h : c ∈ Memory.store m start bytes) : c ∈ m ∨ (start ≤ c.1 ∧ c.1 < start + bytes.length) := by
  rw [Memory.store, List.mem_append, List.mem_append] at h
  rcases h with (h | h) | h
  · exact .inl (List.mem_filter.1 h).1
  · exact .inr (Memory.mem_cellsFrom h)
  · exact .inl (List.mem_filter.1 h).1

/-! The byte at an address. -/

theorem Memory.byteAt_append (m n : List Host.Cell) (a : Nat) :
    Memory.byteAt (m ++ n) a = (Memory.byteAt m a).or (Memory.byteAt n a) := by
  induction m with
  | nil => rfl
  | cons c rest ih =>
    by_cases h : c.1 = a <;> simp [Memory.byteAt, h, ih]

theorem Memory.byteAt_filter (m : List Host.Cell) (p : Nat → Bool) (a : Nat) :
    Memory.byteAt (m.filter fun c => p c.1) a = if p a then Memory.byteAt m a else none := by
  induction m with
  | nil => simp [Memory.byteAt]
  | cons c rest ih =>
    by_cases hc : c.1 = a
    · subst hc
      cases hp : p c.1 <;> simp [Memory.byteAt, hp, ih]
    · cases hp : p c.1 <;> simp [Memory.byteAt, hp, hc, ih]

theorem Memory.byteAt_cellsFrom (start : Nat) (bytes : List Byte) (a : Nat) :
    Memory.byteAt (Memory.cellsFrom start bytes) a = if start ≤ a then bytes[a - start]? else none := by
  induction bytes generalizing start with
  | nil => simp [Memory.cellsFrom, Memory.byteAt]
  | cons b rest ih =>
    rw [Memory.cellsFrom, Memory.byteAt, ih]
    rcases lt_trichotomy start a with h | h | h
    · obtain ⟨d, rfl⟩ : ∃ d, a = start + 1 + d := ⟨a - start - 1, by omega⟩
      have e : start + 1 + d - start = d + 1 := by omega
      simp [e, show ¬ start = start + 1 + d by omega, show start ≤ start + 1 + d by omega]
    · simp [h]
    · simp [show ¬ start = a by omega, show ¬ start ≤ a by omega, show ¬ start + 1 ≤ a by omega]

/-- Reading a byte after a store: the stored byte inside the stored range, else the byte as before. -/
theorem Memory.byteAt_store (m : List Host.Cell) (start : Nat) (bytes : List Byte) (a : Nat) :
    Memory.byteAt (Memory.store m start bytes) a =
      if start ≤ a ∧ a < start + bytes.length then bytes[a - start]? else Memory.byteAt m a := by
  rw [Memory.store, Memory.byteAt_append, Memory.byteAt_append,
    Memory.byteAt_filter m (fun x => decide (x < start)),
    Memory.byteAt_filter m (fun x => decide (start + bytes.length ≤ x)), Memory.byteAt_cellsFrom]
  by_cases h1 : a < start
  · simp [h1, show ¬ start ≤ a by omega, show ¬ start + bytes.length ≤ a by omega]
  · by_cases h2 : a < start + bytes.length
    · have : a - start < bytes.length := by omega
      simp [h1, h2, show start ≤ a by omega, show ¬ start + bytes.length ≤ a by omega,
        List.getElem?_eq_getElem this]
    · have : bytes.length ≤ a - start := by omega
      simp [h1, h2, show start ≤ a by omega, show start + bytes.length ≤ a by omega,
        List.getElem?_eq_none this]

/-- Reading a byte after forgetting a range: nothing inside it, else the byte as before. -/
theorem Memory.byteAt_forget (m : List Host.Cell) (start length a : Nat) :
    Memory.byteAt (Memory.forget m start length) a =
      if start ≤ a ∧ a < start + length then none else Memory.byteAt m a := by
  rw [Memory.forget, Memory.byteAt_filter m (fun x => decide (x < start) || decide (start + length ≤ x))]
  by_cases h : start ≤ a ∧ a < start + length
  · simp [h, show ¬ a < start by omega, show ¬ start + length ≤ a by omega]
  · have : a < start ∨ start + length ≤ a := by omega
    simp [h, this]

/-! Words. -/

/-- The four bytes of a word, put together again, are the word. -/
theorem wordBytes_append (w : Word) :
    w.extractLsb' 24 8 ++ w.extractLsb' 16 8 ++ w.extractLsb' 8 8 ++ w.extractLsb' 0 8 = w := by
  apply BitVec.eq_of_getLsbD_eq
  intro i hi
  simp only [BitVec.getLsbD_append, BitVec.getLsbD_extractLsb']
  interval_cases i <;> simp

@[simp] theorem wordBytes_length (w : Word) : (wordBytes w).length = 4 := rfl

theorem flatMap_wordBytes_length (ws : List Word) : (ws.flatMap wordBytes).length = 4 * ws.length := by
  induction ws with
  | nil => rfl
  | cons w rest ih => simp [List.flatMap_cons, ih]; omega

theorem flatMap_wordBytes_getElem? (ws : List Word) (j k : Nat) (hk : k < 4) :
    (ws.flatMap wordBytes)[4 * j + k]? = ws[j]?.bind fun w => (wordBytes w)[k]? := by
  induction ws generalizing j with
  | nil => simp
  | cons w rest ih =>
    cases j with
    | zero =>
      rw [List.flatMap_cons, List.getElem?_append_left (by simp; omega)]
      simp
    | succ j =>
      rw [List.flatMap_cons, List.getElem?_append_right (by simp; omega), wordBytes_length,
        show 4 * (j + 1) + k - 4 = 4 * j + k by omega, ih]
      simp

/-- The word at the place of a stored word is the stored word. -/
theorem Memory.wordAt_store (fill : Nat → Byte) (m : List Host.Cell) (start j : Nat) (ws : List Word)
    (hj : j < ws.length) :
    Memory.wordAt fill (Memory.store m start (ws.flatMap wordBytes)) (start + 4 * j) = ws[j] := by
  have byte : ∀ k, k < 4 → Memory.byteAt (Memory.store m start (ws.flatMap wordBytes)) (start + 4 * j + k)
      = (wordBytes ws[j])[k]? := fun k hk => by
    rw [Memory.byteAt_store, flatMap_wordBytes_length, if_pos (by omega),
      show start + 4 * j + k - start = 4 * j + k by omega, flatMap_wordBytes_getElem? _ _ _ hk]
    simp [hj]
  simp only [Memory.wordAt, byte 0 (by decide), byte 1 (by decide), byte 2 (by decide), byte 3 (by decide)]
  exact wordBytes_append _

/-- A word all of whose bytes read as before reads as before. -/
theorem Memory.wordAt_congr (fill : Nat → Byte) (m n : List Host.Cell) (a : Nat)
    (h : ∀ k, k < 4 → Memory.byteAt m (a + k) = Memory.byteAt n (a + k)) :
    Memory.wordAt fill m a = Memory.wordAt fill n a := by
  simp only [Memory.wordAt, h 0 (by decide), h 1 (by decide), h 2 (by decide), h 3 (by decide)]

/-- OUT[j] after the whole of OUT is written. -/
theorem State.setOut_outWord (s : State) (ws : List Word) (j : Nat) (hj : j < ws.length) :
    (s.setOut ws).outWord j = ws[j] := Memory.wordAt_store _ _ _ _ _ hj

/-- A byte outside OUT after the whole of OUT is written. -/
theorem State.setOut_byteAt (s : State) (ws : List Word) (a : Nat)
    (ha : a < outBase ∨ outBase + 4 * ws.length ≤ a) :
    Memory.byteAt (s.setOut ws).mem a = Memory.byteAt s.mem a := by
  rw [State.setOut_mem, Memory.byteAt_store, flatMap_wordBytes_length, if_neg (by omega)]

/-- A SEQ word after it is written: the stored bits. -/
theorem State.setSeqWord_seqWord (s : State) (e w : Nat) (v : Word) :
    (s.setSeqWord e w v).seqWord e w = v &&& seqMask w := by
  have := Memory.wordAt_store (Config.seqByte s.seqFill) s.mem (seqAddress e w) 0 [v &&& seqMask w] (by simp)
  simp only [List.flatMap_cons, List.flatMap_nil, List.append_nil, Nat.mul_zero, Nat.add_zero,
    List.getElem_cons_zero] at this
  rw [State.seqWord, State.setSeqWord_seqFill, State.setSeqWord_mem, this, BitVec.and_assoc, BitVec.and_self]

end Sys2Proof.Machine
end

