-- ==== Sys2Proof/Laws/Exec.lean ====
section
/-! SUPPORT. What the shared operations of the commands, a command's completion and an aborted command can do, said
once. -/

namespace Sys2Proof.Machine

/-! Answers. -/

@[simp] theorem andThen_next (s : State) (f : State → Answer) : andThen (.next s) f = f s := rfl

@[simp] theorem nextOr_next (s t : State) : nextOr s (.next t) = t := rfl

/-- What goes on from an answer to a next state went on from a next state. -/
theorem andThen_eq_next {a : Answer} {f : State → Answer} {t : State} (h : andThen a f = .next t) :
    ∃ s, a = .next s ∧ f s = .next t := by
  cases a with
  | next s => exact ⟨s, rfl, h⟩
  | fault r => simp [andThen] at h
  | refused r => simp [andThen] at h

/-! The blocks the renders write. -/

@[simp] theorem noteBlock_length (b : Build) (n : Note) : (noteBlock b n).length = b.bs := by simp [noteBlock]

theorem noteBlock_getElem (b : Build) (n : Note) (j : Nat) (hj : j < (noteBlock b n).length) :
    (noteBlock b n)[j] = noteSample b n j := by simp [noteBlock]

/-- A chord renders to BS words, each its mixval, when it is not empty and its pitches are in range. -/
theorem chordBlock_eq_ok {b : Build} {notes : List Note} {ws : List Word} (h : chordBlock b notes = .ok ws) :
    notes ≠ [] ∧ (∀ n ∈ notes, n.pitch < 12) ∧ ws = (List.range b.bs).map (mixSample b notes)
      ∧ ws.length = b.bs := by
  unfold chordBlock at h
  split at h
  · simp at h
  · split at h
    · cases h
      refine ⟨by simp_all, fun n hn => ?_, rfl, by simp⟩
      exact of_decide_eq_true (List.all_eq_true.1 ‹notes.all Note.inRange = true› n hn)
    · simp at h

/-- When a chord renders. -/
theorem chordBlock_ok (b : Build) {notes : List Note} (hne : notes ≠ []) (h : ∀ n ∈ notes, n.pitch < 12) :
    chordBlock b notes = .ok ((List.range b.bs).map (mixSample b notes)) := by
  have all : notes.all Note.inRange = true :=
    List.all_eq_true.2 fun n hn => decide_eq_true (h n hn)
  simp [chordBlock, hne, all]

/-- An empty chord is an INVALID_ARGUMENT. -/
@[simp] theorem chordBlock_nil (b : Build) : chordBlock b [] = .error .invalidArgument := rfl

/-- A chord with a pitch out of range is a PITCH_CLASS_RANGE. -/
theorem chordBlock_pitch (b : Build) {notes : List Note} (h : ∃ n ∈ notes, 12 ≤ n.pitch) :
    chordBlock b notes = .error .pitchClassRange := by
  obtain ⟨n, hn, hp⟩ := h
  have hne : notes ≠ [] := List.ne_nil_of_mem hn
  have all : notes.all Note.inRange = false :=
    List.all_eq_false.2 ⟨n, hn, fun h => absurd (of_decide_eq_true h) (not_lt.2 hp)⟩
  simp [chordBlock, hne, all]

/-! A command's completion. -/

/-- What a command may have written when it completes without error: the rest of the state is as it was, but for BUSY
and DONE. -/
structure Completed (i : Instr) (s t : State) : Prop where
  frame : t = { s with mem := t.mem, curIndex := t.curIndex, blockCount := t.blockCount, armed := t.armed,
                       busy := false, irqStatus := s.irqStatus ||| irqDone }
  mem : t.mem = s.mem ∨
    ((∃ p o, i = .sample p o) ∨ (∃ n, i = .mix n) ∨ (∃ adv, i = .seqRender adv))
      ∧ ∃ ws : List Word, ws.length = s.build.bs ∧ t.mem = Memory.store s.mem outBase (ws.flatMap wordBytes)
  curIndex : t.curIndex = s.curIndex ∨
    (i = .seqIndex ∨ ∃ adv, i = .seqRender adv) ∧ s.armed = true
      ∧ t.curIndex = BitVec.ofNat 32 (s.sequenceIndex s.blockCount.toNat)
  blockCount : t.blockCount = s.blockCount ∨
    (i = .tick ∨ i = .seqRender true) ∧ t.blockCount = nextBlockCount s.cycleBlocks s.blockCount
  armed : t.armed = s.armed ∨ i = .disarm ∧ t.armed = false
    ∨ i = .arm ∧ t.armed = true ∧ s.configurationOk = true

/-- The errors a command can raise at its completion (60_exceptions.md R121). -/
def commandErrors : List ErrorCode := [.invalidArgument, .configurationError, .pitchClassRange, .illegalCommand]

/-- The error of a chord is one a command can raise. -/
theorem chordBlock_eq_error {b : Build} {notes : List Note} {code : ErrorCode} (h : chordBlock b notes = .error code) :
    code ∈ commandErrors := by
  unfold chordBlock at h
  split_ifs at h <;> cases h <;> decide

/-- A command's completion raises an error of its own or completes; it never stops. -/
theorem exec_cases (i : Instr) (s : State) :
    (∃ code, exec i s = .next (s.failCommand code) ∧ code ∈ commandErrors) ∨ ∃ t, exec i s = .next t ∧ Completed i s t := by
  cases i with
  | nop => exact .inr ⟨_, rfl, rfl, .inl rfl, .inl rfl, .inl rfl, .inl rfl⟩
  | sample p o =>
    by_cases h : Config.pitchClasses ≤ p
    · exact .inl ⟨.pitchClassRange, by simp [exec, execSample, h], by decide⟩
    · exact .inr ⟨(s.setOut (noteBlock s.build ⟨p, o⟩)).finish, by simp only [exec, execSample, h, if_false], rfl,
        .inr ⟨.inl ⟨p, o, rfl⟩, noteBlock s.build ⟨p, o⟩, noteBlock_length _ _, rfl⟩, .inl rfl, .inl rfl, .inl rfl⟩
  | mix n =>
    cases h : chordBlock s.build (s.chordOfRegisters n) with
    | error code => exact .inl ⟨code, by simp only [exec, execMix, h], chordBlock_eq_error h⟩
    | ok ws => exact .inr ⟨(s.setOut ws).finish, by simp only [exec, execMix, h], rfl,
        .inr ⟨.inr (.inl ⟨n, rfl⟩), ws, (chordBlock_eq_ok h).2.2.2, rfl⟩, .inl rfl, .inl rfl, .inl rfl⟩
  | seqRender adv =>
    cases ha : s.armed with
    | false => exact .inl ⟨.configurationError, by simp [exec, execSeqRender, ha], by decide⟩
    | true =>
      cases h : chordBlock s.build (s.chordOfEntry (s.sequenceIndex s.blockCount.toNat)) with
      | error code => exact .inl ⟨code, by simp only [exec, execSeqRender, ha, h, if_true], chordBlock_eq_error h⟩
      | ok ws =>
        refine .inr ⟨(if adv then ((s.setOut ws).setCurIndex
              (s.sequenceIndex s.blockCount.toNat)).advanceBlockCount
            else (s.setOut ws).setCurIndex (s.sequenceIndex s.blockCount.toNat)).finish,
          by simp only [exec, execSeqRender, ha, h, if_true], ?_, ?_, ?_, ?_, ?_⟩
        · cases adv <;> rfl
        · exact .inr ⟨.inr (.inr ⟨adv, rfl⟩), ws, (chordBlock_eq_ok h).2.2.2, by cases adv <;> rfl⟩
        · exact .inr ⟨.inr ⟨adv, rfl⟩, ha, by cases adv <;> rfl⟩
        · cases adv
          · exact .inl rfl
          · exact .inr ⟨.inr rfl, rfl⟩
        · exact .inl (by cases adv <;> rfl)
  | seqIndex =>
    cases ha : s.armed with
    | false => exact .inl ⟨.configurationError, by simp [exec, execSeqIndex, ha], by decide⟩
    | true => exact .inr ⟨(s.setCurIndex (s.sequenceIndex s.blockCount.toNat)).finish,
        by simp only [exec, execSeqIndex, ha, if_true], rfl, .inl rfl,
        .inr ⟨.inl rfl, ha, rfl⟩, .inl rfl, .inl rfl⟩
  | tick =>
    cases ha : s.armed with
    | false => exact .inl ⟨.configurationError, by simp [exec, execTick, ha], by decide⟩
    | true => exact .inr ⟨s.advanceBlockCount.finish, by simp only [exec, execTick, ha, if_true], rfl, .inl rfl, .inl rfl,
        .inr ⟨.inl rfl, rfl⟩, .inl rfl⟩
  | arm =>
    cases ha : s.armed with
    | true => exact .inr ⟨s.finish, by simp only [exec, execArm, ha, if_true], rfl, .inl rfl, .inl rfl,
        .inl rfl, .inl rfl⟩
    | false =>
      cases hc : s.configurationOk with
      | false => exact .inl ⟨.configurationError, by simp [exec, execArm, ha, hc], by decide⟩
      | true => exact .inr ⟨(s.setArmed true).finish, by simp [exec, execArm, ha, hc], rfl, .inl rfl, .inl rfl,
          .inl rfl, .inr (.inr ⟨rfl, rfl, hc⟩)⟩
  | disarm => exact .inr ⟨_, rfl, rfl, .inl rfl, .inl rfl, .inl rfl, .inr (.inl ⟨rfl, rfl⟩)⟩

/-- The engine's completion step: ILLEGAL_COMMAND, another error, or a completed command. -/
theorem complete_cases (s : State) :
    (∃ code, complete s = .next (s.failCommand code) ∧ code ∈ commandErrors)
      ∨ ∃ i t, decode s.cmd = .ok i ∧ complete s = .next t ∧ Completed i s t := by
  unfold complete
  cases h : decode s.cmd with
  | error r => exact .inl ⟨.illegalCommand, rfl, by decide⟩
  | ok i =>
    rcases exec_cases i s with ⟨code, hc⟩ | ⟨t, ht, hcomp⟩
    · exact .inl ⟨code, hc⟩
    · exact .inr ⟨i, t, rfl, ht, hcomp⟩

/-- What an aborted command leaves: OUT forgotten, and its registers as they were or as it would have left them. -/
theorem abortCommand_cases (s : State) :
    s.abortCommand = { s with mem := Memory.forget s.mem outBase (4 * s.build.bs), outFill := s.outFill + 1,
                              draws := s.draws + 1, curIndex := s.abortCommand.curIndex,
                              blockCount := s.abortCommand.blockCount, armed := s.abortCommand.armed }
    ∧ (s.abortCommand.curIndex = s.curIndex ∨ s.abortCommand.curIndex = (nextOr s (complete s)).curIndex)
    ∧ (s.abortCommand.blockCount = s.blockCount ∨ s.abortCommand.blockCount = (nextOr s (complete s)).blockCount)
    ∧ (s.abortCommand.armed = s.armed ∨ s.abortCommand.armed = (nextOr s (complete s)).armed) := by
  refine ⟨rfl, ?_, ?_, ?_⟩
  · rw [State.abortCommand_curIndex]; split <;> simp
  · rw [State.abortCommand_blockCount]; split <;> simp
  · rw [State.abortCommand_armed]; split <;> simp

end Sys2Proof.Machine
end

