-- ==== Sys2Proof/Laws/Step.lean ====
section
/-! SUPPORT. What a host access, a clock cycle and a step can do, said once. -/

namespace Sys2Proof.Machine

/-! The address map. -/

/-- The register table lists the bus addresses of R15; every other address is a window's or reserved. -/
theorem locate_register {b : Build} {a : Nat} {r : Reg} {x : Access} (h : locate b a = .register r x) :
    (r, a, x) ∈ registerTable := by
  unfold locate at h
  split at h
  · rename_i row hr
    cases h
    have e : row.2.1 = a := by simpa using List.find?_some hr
    exact e ▸ List.mem_of_find?_eq_some hr
  · unfold locateWindow at h
    dsimp only at h
    split_ifs at h

/-- A word of the sequence memory lies in its window, below the depth. -/
theorem locate_seq {b : Build} {a e w : Nat} (h : locate b a = .seq e w) :
    e < b.seqDepth ∧ e = (a - seqBase) / 16 ∧ w = (a - seqBase) % 16 / 4 ∧ seqBase ≤ a ∧ a < 0x20000 := by
  unfold locate at h
  split at h
  · cases h
  · unfold locateWindow at h
    dsimp only at h
    split_ifs at h with h1 h2
    cases h
    exact ⟨h2, rfl, rfl, h1⟩

/-- A word of OUT lies in its window, below the block size. -/
theorem locate_out {b : Build} {a j : Nat} (h : locate b a = .out j) : j < b.bs ∧ j = (a - outBase) / 4 ∧ outBase ≤ a := by
  unfold locate at h
  split at h
  · cases h
  · unfold locateWindow at h
    dsimp only at h
    split_ifs at h with h1 h2 h3 h4
    cases h
    exact ⟨h4, rfl, h3.1⟩

/-- Only IRQ_STATUS is written through a write-one-to-clear. -/
theorem isIrqStatus_iff (l : Location) : l.isIrqStatus = true ↔ ∃ x, l = .register .irqStatus x := by
  cases l with
  | register r x => cases r <;> simp [Location.isIrqStatus]
  | seq e w => simp [Location.isIrqStatus]
  | out j => simp [Location.isIrqStatus]
  | wt p j => simp [Location.isIrqStatus]
  | reserved => simp [Location.isIrqStatus]

/-! Host accesses. -/

/-- The fields a write to a location may touch; it never fails a command, arms, or touches what the block computes. -/
theorem writeLocation_frame (s : State) (v : Word) (l : Location) :
    let t := s.writeLocation v l
    t = { s with cmd := t.cmd, busy := t.busy, irqStatus := t.irqStatus, irqEnable := t.irqEnable,
                 blockCount := t.blockCount, cycleBlocks := t.cycleBlocks, seqLen := t.seqLen,
                 seqRateNum := t.seqRateNum, seqRateDen := t.seqRateDen, note0 := t.note0, note1 := t.note1,
                 note2 := t.note2, mem := t.mem } := by
  cases l with
  | register r x => cases r <;> rfl
  | seq e w => rfl
  | out j => rfl
  | wt p j => rfl
  | reserved => rfl

/-- What a host write does: nothing while halted, a write to one of the two interrupt registers, a fatal error, or the
write itself while idle and not locked. -/
theorem hostWrite_cases (s : State) (a : Nat) (v : Word) :
    let l := locate s.build a
    (s.halted = true ∧ l.isIrqRegister = false ∧ s.hostWrite a v = s)
    ∨ (l.isIrqRegister = true ∧ s.hostWrite a v = s.writeLocation v l)
    ∨ (s.halted = false ∧ ∃ code, s.hostWrite a v = s.failWrite code a)
    ∨ (s.halted = false ∧ s.busy = false ∧ l.refusesWrites = false ∧ (s.armed && l.locks) = false
        ∧ s.hostWrite a v = s.writeLocation v l) := by
  intro l
  have e : s.hostWrite a v = if s.halted then
      if l.isIrqRegister then s.writeLocation v l else s
    else if l.refusesWrites then s.failWrite .accessError a
    else if s.busy && !l.isIrqRegister then s.failWrite .busyWrite a
    else if s.armed && l.locks then s.failWrite .lockedWrite a
    else s.writeLocation v l := rfl
  clear_value l
  rw [e]
  cases hh : s.halted with
  | true =>
    cases hi : l.isIrqRegister with
    | true => exact .inr (.inl ⟨rfl, by simp⟩)
    | false => exact .inl ⟨rfl, rfl, by simp⟩
  | false =>
    cases hr : l.refusesWrites with
    | true => exact .inr (.inr (.inl ⟨rfl, .accessError, by simp⟩))
    | false =>
      cases hb : (s.busy && !l.isIrqRegister) with
      | true => exact .inr (.inr (.inl ⟨rfl, .busyWrite, by simp⟩))
      | false =>
        cases hl : (s.armed && l.locks) with
        | true => exact .inr (.inr (.inl ⟨rfl, .lockedWrite, by simp⟩))
        | false =>
          cases hi : l.isIrqRegister with
          | true => exact .inr (.inl ⟨rfl, by simp⟩)
          | false => exact .inr (.inr (.inr ⟨rfl, by simpa [hi] using hb, rfl, rfl, by simp⟩))

/-- A fatal host write while no command is in flight. -/
theorem failWrite_idle {s : State} (h : s.busy = false) (code : ErrorCode) (a : Nat) :
    s.failWrite code a = s.raiseFatal code (BitVec.ofNat 32 a) := by simp [State.failWrite, h]

/-- A fatal host write while a command is in flight. -/
theorem failWrite_busy {s : State} (h : s.busy = true) (code : ErrorCode) (a : Nat) :
    s.failWrite code a = s.abortCommand.raiseFatal code (BitVec.ofNat 32 a) := by simp [State.failWrite, h]

/-- A read changes what `bus_rdata` carries and the count of draws, no more. -/
theorem hostRead_frame (s : State) (a : Nat) :
    s.hostRead a = { s with busRdata := (s.hostRead a).busRdata, draws := (s.hostRead a).draws } := by
  unfold State.hostRead
  dsimp only
  split_ifs <;> rfl

/-! Cycles and steps. -/

/-- The engine's part of a cycle is the completion step or nothing; it never stops. -/
theorem engineTurn_cases (c : Cycle) (s : State) :
    (engineTurn c s = .next s ∧ (c.completes && s.busy && !s.halted) = false)
      ∨ (engineTurn c s = complete s ∧ c.completes = true ∧ s.busy = true ∧ s.halted = false) := by
  unfold engineTurn
  cases hc : c.completes <;> cases hb : s.busy <;> cases hh : s.halted <;> simp

/-- The engine's part of a cycle answers a next state. -/
theorem engineTurn_next (c : Cycle) (s : State) : ∃ t, engineTurn c s = .next t := by
  rcases engineTurn_cases c s with ⟨h, -⟩ | ⟨h, -⟩
  · exact ⟨s, h⟩
  · rcases complete_cases s with ⟨code, hc, -⟩ | ⟨i, t, -, ht, -⟩
    · exact ⟨_, h.trans hc⟩
    · exact ⟨t, h.trans ht⟩

/-- What the engine's part of a cycle leaves as it was: the build, the command word, the host's registers, the inputs. -/
theorem engineTurn_frame {c : Cycle} {s t : State} (h : engineTurn c s = .next t) :
    t = { s with mem := t.mem, curIndex := t.curIndex, blockCount := t.blockCount, armed := t.armed, busy := t.busy,
                 irqStatus := t.irqStatus, errCode := t.errCode, errInfo := t.errInfo, halted := t.halted } := by
  rcases engineTurn_cases c s with ⟨e, -⟩ | ⟨e, -⟩
  · rw [e] at h
    cases h
    rfl
  · rcases complete_cases s with ⟨code, ec, -⟩ | ⟨i, u, -, eu, hc⟩
    · rw [e, ec] at h
      cases h
      rfl
    · rw [e, eu] at h
      cases h
      rw [hc.frame]

/-- A write-one-to-clear touches IRQ_STATUS alone. -/
theorem clearTurn_frame (c : Cycle) (s : State) :
    clearTurn c s = { s with irqStatus := (clearTurn c s).irqStatus } := by
  unfold clearTurn
  split <;> rfl

/-- `block_tick` touches IRQ_STATUS and OVERRUN_COUNT alone. -/
theorem tickTurn_frame (c : Cycle) (s : State) :
    tickTurn c s = { s with irqStatus := (tickTurn c s).irqStatus, overrunCount := (tickTurn c s).overrunCount } := by
  unfold tickTurn
  split <;> rfl

/-- The host's part of a cycle: a write, or at most a read. -/
theorem hostTurn_cases (c : Cycle) (s : State) :
    (c.busWe = true ∧ (locate s.build (byteAddress c.busAddr)).isIrqStatus = false
        ∧ hostTurn c s = s.hostWrite (byteAddress c.busAddr) c.busWdata)
      ∨ hostTurn c s = { s with busRdata := (hostTurn c s).busRdata, draws := (hostTurn c s).draws } := by
  unfold hostTurn Cycle.clearsPending
  cases hw : c.busWe <;> cases hi : (locate s.build (byteAddress c.busAddr)).isIrqStatus <;> cases hr : c.busRe
  all_goals first
    | exact .inl ⟨rfl, rfl, rfl⟩
    | exact .inr rfl
    | exact .inr (hostRead_frame _ _)

/-- What a step that answers a next state did: a reset, or the cycle's events in their order. -/
theorem step_cases {s t : State} (h : step s = .next t) :
    s.build.legal = true ∧ (s.nextCycle.busWe && s.nextCycle.busRe) = false
    ∧ ((s.nextCycle.rst = true ∧ t = s.takeCycle.applyReset)
      ∨ (s.nextCycle.rst = false ∧ ∃ u, engineTurn s.nextCycle (clearTurn s.nextCycle s.takeCycle) = .next u
          ∧ t = hostTurn s.nextCycle (tickTurn s.nextCycle u))) := by
  unfold step runCycle clockCycle at h
  split at h
  · rename_i hr
    refine ⟨hr, ?_⟩
    split at h
    · cases h
    · rename_i hs
      refine ⟨by simpa using hs, ?_⟩
      split at h
      · cases h
        exact .inl ⟨‹_›, rfl⟩
      · obtain ⟨u, hu, ht⟩ := andThen_eq_next h
        cases ht
        exact .inr ⟨by simp_all, u, hu, rfl⟩
  · cases h

end Sys2Proof.Machine
end

