-- ==== Sys2Proof/Laws/AddressMap.lean ====
section
/-! SUPPORT. Where the address map puts every register and every word of the windows (20_memory.md R38). -/

namespace Sys2Proof.Machine

/-- The ranges of the parameters, one by one (00_scope.md R10). -/
theorem inRange_bounds {b : Build} (h : b.inRange = true) :
    1 ≤ b.fs ∧ b.fs < 2 ^ 32 ∧ 1 ≤ b.bs ∧ b.bs ≤ 8192 ∧ 1 ≤ b.seqDepth ∧ b.seqDepth ≤ 4096 := by
  simp only [Build.inRange, Bool.and_eq_true, decide_eq_true_eq] at h
  omega

/-- Every row of the register table is where it says. -/
theorem locate_row (b : Build) {row : Reg × Nat × Access} (h : row ∈ registerTable) :
    locate b row.2.1 = .register row.1 row.2.2 := by
  have : registerTable.find? (fun q => q.2.1 == row.2.1) = some row := by
    revert row
    decide
  unfold locate
  rw [this]

/-- Past the registers the windows decide. -/
theorem locate_past_registers (b : Build) {a : Nat} (h : 0x58 < a) : locate b a = locateWindow b a := by
  have all : ∀ row ∈ registerTable, row.2.1 ≤ 0x58 := by decide
  have : registerTable.find? (fun row => row.2.1 == a) = none := by
    rw [List.find?_eq_none]
    intro row hrow
    have := all row hrow
    simp only [beq_iff_eq]
    omega
  unfold locate
  rw [this]

/-- Word w of entry e of the sequence memory. -/
theorem locate_seqAddress {b : Build} (hb : b.inRange = true) {e w : Nat} (he : e < b.seqDepth) (hw : w < 4) :
    locate b (seqAddress e w) = .seq e w := by
  have bounds := inRange_bounds hb
  have h1 : (seqAddress e w - seqBase) / 16 = e := by unfold seqAddress seqBase; omega
  have h2 : (seqAddress e w - seqBase) % 16 / 4 = w := by unfold seqAddress seqBase; omega
  have h3 : seqBase ≤ seqAddress e w ∧ seqAddress e w < 0x20000 := by unfold seqAddress seqBase; omega
  rw [locate_past_registers b (by unfold seqAddress seqBase; omega), locateWindow, if_pos h3, h1, h2]
  exact if_pos he

/-- OUT[j]. -/
theorem locate_outAddress {b : Build} (hb : b.inRange = true) {j : Nat} (hj : j < b.bs) :
    locate b (outAddress j) = .out j := by
  have bounds := inRange_bounds hb
  have h1 : (outAddress j - outBase) / 4 = j := by unfold outAddress outBase; omega
  have h2 : ¬ (seqBase ≤ outAddress j ∧ outAddress j < 0x20000) := by unfold outAddress outBase seqBase; omega
  have h3 : outBase ≤ outAddress j ∧ outAddress j < 0x48000 := by unfold outAddress outBase; omega
  rw [locate_past_registers b (by unfold outAddress outBase; omega), locateWindow, if_neg h2, if_pos h3, h1]
  exact if_pos hj

/-- WT[p][j]. -/
theorem locate_wtWord {b : Build} (hb : b.inRange = true) {p j : Nat} (hp : p < 12) (hj : j < b.bs) :
    locate b (wtBase + 0x8000 * p + 4 * j) = .wt p j := by
  have bounds := inRange_bounds hb
  obtain ⟨a, ha⟩ : ∃ a, a = wtBase + 0x8000 * p + 4 * j := ⟨_, rfl⟩
  rw [← ha]
  unfold wtBase at ha
  have h1 : (a - wtBase) / 0x8000 = p := by unfold wtBase; omega
  have h2 : (a - wtBase) % 0x8000 / 4 = j := by unfold wtBase; omega
  have h3 : ¬ (seqBase ≤ a ∧ a < 0x20000) := by unfold seqBase; omega
  have h4 : ¬ (outBase ≤ a ∧ a < 0x48000) := by unfold outBase; omega
  have h5 : wtBase ≤ a ∧ a < 0xE0000 := by unfold wtBase; omega
  rw [locate_past_registers b (by omega), locateWindow, if_neg h3, if_neg h4, if_pos h5, h1, h2]
  exact if_pos hj

/-- A reserved address past the registers: outside the three windows, or past the words the build has in them. -/
theorem locate_reserved {b : Build} {a : Nat} (h : 0x58 < a)
    (hs : ¬ (seqBase ≤ a ∧ a < seqBase + 16 * b.seqDepth)) (ho : ¬ (outBase ≤ a ∧ a < outBase + 4 * b.bs))
    (hw : ¬ (wtBase ≤ a ∧ a < 0xE0000 ∧ (a - wtBase) % 0x8000 < 4 * b.bs)) : locate b a = .reserved := by
  rw [locate_past_registers b h, locateWindow]
  dsimp only
  split_ifs with h1 h2 h3 h4 h5 h6
  · unfold seqBase at *; omega
  · rfl
  · unfold outBase at *; omega
  · rfl
  · exact absurd ⟨h5.1, h5.2, by omega⟩ hw
  · rfl
  · rfl

/-- Where the host may write: the read-write registers and the sequence memory the build has. -/
theorem refusesWrites_iff {b : Build} (hb : b.inRange = true) (a : Nat) :
    (locate b a).refusesWrites = false ↔
      a ∈ [0x00, 0x0C, 0x10, 0x14, 0x18, 0x1C, 0x20, 0x24, 0x50, 0x54, 0x58]
        ∨ (seqBase ≤ a ∧ a < seqBase + 16 * b.seqDepth) := by
  constructor
  · intro h
    cases hl : locate b a with
    | register r x =>
      left
      have := locate_register hl
      rw [hl] at h
      revert this h
      clear hl
      cases r <;> simp only [registerTable, List.mem_cons, Prod.mk.injEq] <;> intro h' h <;>
        simp_all [Location.refusesWrites]
    | seq e w =>
      have := locate_seq hl
      unfold seqBase at *
      right; omega
    | out j => rw [hl] at h; cases h
    | wt p j => rw [hl] at h; cases h
    | reserved => rw [hl] at h; cases h
  · rintro (h | h)
    · simp only [List.mem_cons, List.not_mem_nil, or_false] at h
      rcases h with rfl | rfl | rfl | rfl | rfl | rfl | rfl | rfl | rfl | rfl | rfl <;> rfl
    · have bounds := inRange_bounds hb
      have e : (a - seqBase) / 16 < b.seqDepth := by unfold seqBase at *; omega
      have h1 : seqBase ≤ a ∧ a < 0x20000 := by unfold seqBase at *; omega
      rw [locate_past_registers b (by unfold seqBase at *; omega), locateWindow, if_pos h1]
      dsimp only
      rw [if_pos e]
      rfl

/-- What the armed phase locks: the sequencer's configuration and the sequence memory the build has. -/
theorem locks_of_configuration {b : Build} (hb : b.inRange = true) {a : Nat}
    (h : a ∈ [0x18, 0x1C, 0x20, 0x24] ∨ (seqBase ≤ a ∧ a < seqBase + 16 * b.seqDepth)) :
    (locate b a).locks = true ∧ (locate b a).refusesWrites = false ∧ (locate b a).isIrqRegister = false := by
  rcases h with h | h
  · simp only [List.mem_cons, List.not_mem_nil, or_false] at h
    rcases h with rfl | rfl | rfl | rfl <;> exact ⟨rfl, rfl, rfl⟩
  · have bounds := inRange_bounds hb
    have e : (a - seqBase) / 16 < b.seqDepth := by unfold seqBase at *; omega
    have h1 : seqBase ≤ a ∧ a < 0x20000 := by unfold seqBase at *; omega
    rw [locate_past_registers b (by unfold seqBase at *; omega), locateWindow, if_pos h1]
    dsimp only
    rw [if_pos e]
    exact ⟨rfl, rfl, rfl⟩

/-- Only IRQ_STATUS and IRQ_ENABLE are interrupt registers. -/
theorem isIrqRegister_eq_false (b : Build) {a : Nat} (h1 : a ≠ 0x0C) (h2 : a ≠ 0x10) :
    (locate b a).isIrqRegister = false := by
  cases hl : locate b a with
  | register r x =>
    have := locate_register hl
    clear hl
    cases r <;> simp_all [Location.isIrqRegister, registerTable]
  | seq e w => rfl
  | out j => rfl
  | wt p j => rfl
  | reserved => rfl

/-- Only 0x0C is IRQ_STATUS. -/
theorem isIrqStatus_eq (b : Build) (a : Nat) : (locate b a).isIrqStatus = decide (a = 0x0C) := by
  cases hl : locate b a with
  | register r x =>
    have := locate_register hl
    clear hl
    cases r <;> simp_all [Location.isIrqStatus, registerTable]
  | seq e w =>
    have := (locate_seq hl).2.2.2.1
    unfold seqBase at this
    simp [Location.isIrqStatus]; omega
  | out j =>
    have := (locate_out hl).2.2
    unfold outBase at this
    simp [Location.isIrqStatus]; omega
  | wt p j =>
    by_cases h : a = 0x0C
    · subst h; cases hl
    · simp [Location.isIrqStatus, h]
  | reserved =>
    by_cases h : a = 0x0C
    · subst h; cases hl
    · simp [Location.isIrqStatus, h]

end Sys2Proof.Machine
end

