-- ==== Sys2Proof/Laws/Binary32.lean ====
section
/-! SUPPORT. What rounding to binary32 can do, said once: the word it gives, its value, and how far that lies from the
exact one. -/

namespace Sys2Proof.Machine

/-- The biased exponent of a word with its sign bit clear. -/
theorem exponentField_ofNat {n : Nat} (h : n < 2 ^ 31) : exponentField (BitVec.ofNat 32 n) = n / 2 ^ 23 := by
  simp only [exponentField, BitVec.extractLsb'_toNat, BitVec.toNat_ofNat, Nat.shiftRight_eq_div_pow]
  omega

/-- The fraction of a word. -/
theorem fractionField_ofNat (n : Nat) : fractionField (BitVec.ofNat 32 n) = n % 2 ^ 23 := by
  simp only [fractionField, BitVec.extractLsb'_toNat, BitVec.toNat_ofNat, Nat.shiftRight_eq_div_pow]
  omega

/-- Words below +infinity are samples. -/
theorem isSample_ofNat {n : Nat} (h : n < 0x7F800000) : isSample (BitVec.ofNat 32 n) = true := by
  have sign : (BitVec.ofNat 32 n).getLsbD 31 = false := by
    rw [BitVec.getLsbD_ofNat, Nat.testBit_lt_two_pow (by omega), Bool.and_false]
  have : n / 2 ^ 23 ≠ 255 := by omega
  rw [isSample, sign, exponentField_ofNat (by omega)]
  simpa using this

/-- The value of the word of `k` binades and `r` multiples of the spacing 2^k. -/
theorem sampleUnits_ofNat {k r : Nat} (hr : r ≤ 2 ^ 24) (hk : k = 0 ∨ 2 ^ 23 ≤ r) (h : k * 2 ^ 23 + r < 0x7F800000) :
    sampleUnits (BitVec.ofNat 32 (k * 2 ^ 23 + r)) = r * 2 ^ k := by
  have lt : k * 2 ^ 23 + r < 2 ^ 31 := by omega
  rw [sampleUnits, exponentField_ofNat lt, fractionField_ofNat]
  rcases Nat.lt_or_ge r (2 ^ 23) with low | high
  · obtain rfl : k = 0 := by omega
    rw [if_pos (by omega)]
    omega
  · rw [if_neg (by omega)]
    rcases Nat.lt_or_ge r (2 ^ 24) with mid | top
    · rw [show (k * 2 ^ 23 + r) / 2 ^ 23 - 1 = k by omega, show 2 ^ 23 + (k * 2 ^ 23 + r) % 2 ^ 23 = r by omega]
    · obtain rfl : r = 2 ^ 24 := by omega
      rw [show (k * 2 ^ 23 + 2 ^ 24) / 2 ^ 23 - 1 = k + 1 by omega,
        show 2 ^ 23 + (k * 2 ^ 23 + 2 ^ 24) % 2 ^ 23 = 2 ^ 23 by omega]
      ring

/-- Rounding to a whole number moves by at most a half. -/
theorem roundTiesEven_near {num den : Nat} (hd : 0 < den) :
    2 * num ≤ 2 * (roundTiesEven num den * den) + den ∧ 2 * (roundTiesEven num den * den) ≤ 2 * num + den := by
  have split := Nat.div_add_mod' num den
  have below := Nat.mod_lt num hd
  simp only [roundTiesEven]
  generalize num / den = q at *
  generalize num % den = m at *
  split_ifs with h1 h2
  · omega
  · rw [Nat.add_mul, Nat.one_mul]
    omega
  · rcases Nat.mod_two_eq_zero_or_one q with h | h <;> rw [h]
    · rw [Nat.add_zero]
      omega
    · rw [Nat.add_mul, Nat.one_mul]
      omega

/-- Rounding to a whole number gives the floor or the next. -/
theorem roundTiesEven_bounds (num den : Nat) :
    num / den ≤ roundTiesEven num den ∧ roundTiesEven num den ≤ num / den + 1 := by
  simp only [roundTiesEven]
  split_ifs <;> omega

/-- The multiple of the spacing that is rounded to lies in its binade or at its upper end. -/
theorem roundTiesEven_spacing {num den : Nat} :
    roundTiesEven num (den * 2 ^ spacingLog num den) ≤ 2 ^ 24
      ∧ (spacingLog num den = 0 ∨ 2 ^ 23 ≤ roundTiesEven num (den * 2 ^ spacingLog num den)) := by
  obtain ⟨low, high⟩ := roundTiesEven_bounds num (den * 2 ^ spacingLog num den)
  rw [← Nat.div_div_eq_div_mul] at low high
  have below : num / den / 2 ^ spacingLog num den < 2 ^ 24 := by
    rw [Nat.div_lt_iff_lt_mul (by positivity), ← Nat.pow_add]
    exact lt_of_lt_of_le Nat.lt_log2_self (Nat.pow_le_pow_right (by decide) (by unfold spacingLog; omega))
  refine ⟨by omega, ?_⟩
  by_cases hk : spacingLog num den = 0
  · exact .inl hk
  · have hq : num / den ≠ 0 := by
      intro h
      simp [spacingLog, h] at hk
    have above : 2 ^ 23 ≤ num / den / 2 ^ spacingLog num den := by
      rw [Nat.le_div_iff_mul_le (by positivity), ← Nat.pow_add]
      refine le_trans (Nat.pow_le_pow_right (by decide) ?_) (Nat.log2_self_le hq)
      unfold spacingLog at *
      omega
    exact .inr (by omega)

/-- Away from overflow the rounded word is a sample within half a spacing of the exact value, in units of 2^-149. -/
theorem nearestBinary32_near {num den : Nat} (hd : 0 < den) (hk : spacingLog num den ≤ 252) :
    isSample (nearestBinary32 num den) = true
      ∧ 2 * num ≤ 2 * (sampleUnits (nearestBinary32 num den) * den) + den * 2 ^ spacingLog num den
      ∧ 2 * (sampleUnits (nearestBinary32 num den) * den) ≤ 2 * num + den * 2 ^ spacingLog num den := by
  obtain ⟨high, low⟩ := roundTiesEven_spacing (num := num) (den := den)
  obtain ⟨near, near'⟩ := roundTiesEven_near (num := num) (show 0 < den * 2 ^ spacingLog num den by positivity)
  have lt : spacingLog num den * 2 ^ 23 + roundTiesEven num (den * 2 ^ spacingLog num den) < 0x7F800000 := by omega
  have word : nearestBinary32 num den
      = BitVec.ofNat 32 (spacingLog num den * 2 ^ 23 + roundTiesEven num (den * 2 ^ spacingLog num den)) := by
    rw [nearestBinary32, Nat.min_eq_left (by omega)]
  have units : sampleUnits (nearestBinary32 num den) * den
      = roundTiesEven num (den * 2 ^ spacingLog num den) * (den * 2 ^ spacingLog num den) := by
    rw [word, sampleUnits_ofNat high low lt]
    ring
  rw [units]
  exact ⟨word ▸ isSample_ofNat lt, near, near'⟩

end Sys2Proof.Machine
end

