-- ==== Sys2Proof/Laws/PerInstr.lean ====
section
/-! SUPPORT. Laws of every command as syntax, one lemma per constructor of Instr. -/

namespace Sys2Proof.Laws

/-- OPC of a command (30_encoding.md R62). -/
def opcOf : Instr → BitVec 4
  | .nop => 0#4
  | .sample _ _ => 1#4
  | .mix _ => 2#4
  | .seqRender _ => 3#4
  | .seqIndex => 4#4
  | .tick => 5#4
  | .arm => 6#4
  | .disarm => 7#4

namespace EncodeOpcode

/-- The word of a well-formed command has its row's OPC (30_encoding.md R57, R62). -/
def Statement (i : Instr) : Prop := i.WellFormed → opcField (encode i) = opcOf i

theorem nop : Statement .nop := fun _ => by decide

theorem sample (pitch : Nat) (octave : Int) : Statement (.sample pitch octave) := by
  intro h
  have low : ∀ m, 4 ≤ m → (BitVec.ofNat 32 pitch).getLsbD m = false := fun m hm => by
    rw [BitVec.getLsbD_ofNat, Nat.testBit_lt_two_pow, Bool.and_false]
    exact lt_of_le_of_lt h.1 (lt_of_lt_of_le (by decide : 15 < 2 ^ 4) (Nat.pow_le_pow_right (by decide) hm))
  ext k hk
  have := low (28 + k) (by omega)
  interval_cases k <;> simp_all [encode, noteBits, opcField, opcOf]

theorem mix (voices : Nat) : Statement (.mix voices) := by
  intro h
  have h : voices ≤ 3 := h
  interval_cases voices <;> rfl

theorem seqRender (adv : Bool) : Statement (.seqRender adv) := fun _ => by cases adv <;> rfl

theorem seqIndex : Statement .seqIndex := fun _ => by decide

theorem tick : Statement .tick := fun _ => by decide

theorem arm : Statement .arm := fun _ => by decide

theorem disarm : Statement .disarm := fun _ => by decide

end EncodeOpcode

end Sys2Proof.Laws
end

