-- ==== Sys2Proof/Laws/Wavetable.lean ====
section
/-! SUPPORT. The reference image is legal: its words are samples within the tolerance, whatever the parameters
(40_wavetable.md R72, R73), so every word of a legal build's ROM is. -/

namespace Sys2Proof

theorem Transform.divisor_pos (t : Transform) : 0 < t.divisor := by cases t <;> decide

namespace Machine

theorem fixedOne_pos : 0 < fixedOne := Nat.pow_pos Nat.two_pos

/-- The series stays at or below one. -/
theorem sineSeries_le (square terms k : Nat) : sineSeries square terms k ≤ fixedOne := by
  cases terms with
  | zero => exact le_refl _
  | succ terms => exact Nat.sub_le _ _

/-- The sine of an angle of the first quarter stays below two. -/
theorem quarterSine_le {x : Nat} (h : x ≤ fixedOne / 4) : quarterSine x ≤ 2 * fixedOne := by
  have angle : fixedTwoPi * x / fixedOne ≤ 2 * fixedOne :=
    calc fixedTwoPi * x / fixedOne ≤ fixedTwoPi * (fixedOne / 4) / fixedOne :=
          Nat.div_le_div_right (Nat.mul_le_mul_left _ h)
      _ ≤ 2 * fixedOne := by decide +kernel
  refine le_trans (Nat.div_le_of_le_mul ?_) angle
  rw [Nat.mul_comm fixedOne]
  exact Nat.mul_le_mul_left _ (sineSeries_le _ _ _)

/-- The sine of a phase, plus one, stays at or below three. -/
theorem onePlusSine_le {x : Nat} (h : x < fixedOne) : onePlusSine x ≤ 3 * fixedOne := by
  have four : 4 * (fixedOne / 4) = fixedOne := by decide +kernel
  simp only [onePlusSine]
  split_ifs with h1 h2 h3
  · have := quarterSine_le (x := x) (by omega)
    omega
  · have := quarterSine_le (x := 2 * (fixedOne / 4) - x) (by omega)
    omega
  · omega
  · omega

theorem fixedIdeal_le (fs : Nat) (baseFreq : Word) (p j : Nat) : fixedIdeal fs baseFreq p j ≤ 3 * fixedOne :=
  onePlusSine_le (Nat.mod_lt _ fixedOne_pos)

/-- A reference word is rounded with a spacing of at most 2^127 units. -/
theorem referenceWord_spacing (fs : Nat) (baseFreq : Word) (t : Transform) (p j : Nat) :
    spacingLog (fixedIdeal fs baseFreq p j * 2 ^ 149) (t.divisor * fixedOne) ≤ 127 := by
  have le : fixedIdeal fs baseFreq p j * 2 ^ 149 / (t.divisor * fixedOne) < 2 ^ 151 := by
    rw [Nat.div_lt_iff_lt_mul (Nat.mul_pos t.divisor_pos fixedOne_pos)]
    have := fixedIdeal_le fs baseFreq p j
    have := t.divisor_pos
    have := fixedOne_pos
    nlinarith
  unfold spacingLog
  by_cases h : fixedIdeal fs baseFreq p j * 2 ^ 149 / (t.divisor * fixedOne) = 0
  · rw [h]
    decide
  · have := (Nat.log2_lt h).2 le
    omega

/-- A word of the reference image is a sample. -/
theorem referenceWord_isSample (fs : Nat) (baseFreq : Word) (t : Transform) (p j : Nat) :
    isSample (referenceWord fs baseFreq t p j) = true :=
  (nearestBinary32_near (Nat.mul_pos t.divisor_pos fixedOne_pos) (le_trans (referenceWord_spacing fs baseFreq t p j) (by decide))).1

/-- A word of the reference image is within the tolerance. -/
theorem referenceWord_withinTolerance (fs : Nat) (baseFreq : Word) (t : Transform) (p j : Nat) :
    withinTolerance fs baseFreq t p j (referenceWord fs baseFreq t p j) = true := by
  have spacing := referenceWord_spacing fs baseFreq t p j
  obtain ⟨-, near, near'⟩ := nearestBinary32_near (Nat.mul_pos t.divisor_pos fixedOne_pos) (le_trans spacing (by decide : 127 ≤ 252))
  have pow : 2 ^ spacingLog (fixedIdeal fs baseFreq p j * 2 ^ 149) (t.divisor * fixedOne) ≤ 2 ^ 127 :=
    Nat.pow_le_pow_right (by decide) spacing
  have le := Nat.mul_le_mul_left (t.divisor * fixedOne) pow
  have one : fixedOne = 2 ^ 149 * 2 ^ 171 := by simp only [fixedOne, ← Nat.pow_add]
  have units : sampleUnits (referenceWord fs baseFreq t p j) * (t.divisor * fixedOne)
      = sampleUnits (referenceWord fs baseFreq t p j) * 2 ^ 171 * t.divisor * 2 ^ 149 := by
    rw [one]
    ring
  change 2 * _ ≤ 2 * (sampleUnits (referenceWord fs baseFreq t p j) * _) + _ at near
  change 2 * (sampleUnits (referenceWord fs baseFreq t p j) * _) ≤ _ at near'
  rw [units] at near near'
  simp only [withinTolerance, decide_eq_true_eq]
  generalize t.divisor * fixedOne * 2 ^ spacingLog _ (t.divisor * fixedOne) = gap at *
  generalize sampleUnits _ * 2 ^ 171 * t.divisor = stored at *
  generalize fixedIdeal fs baseFreq p j = ideal at *
  generalize t.divisor * fixedOne = den at *
  rcases le_total stored ideal with h | h
  · rw [max_eq_right h, min_eq_left h]
    omega
  · rw [max_eq_left h, min_eq_right h]
    omega

end Machine

theorem Build.legal_inRange {b : Build} (h : b.legal = true) : b.inRange = true := (Bool.and_eq_true_iff.1 h).1

theorem Build.legal_imageLegal {b : Build} (h : b.legal = true) : b.imageLegal = true := (Bool.and_eq_true_iff.1 h).2

/-- Every word of a legal image is a sample within the tolerance (40_wavetable.md R72). -/
theorem Build.wtWord_legal {b : Build} (h : b.imageLegal = true) {p j : Nat} (hp : p < 12) (hj : j < b.bs) :
    Machine.isSample (b.wtWord p j) = true
      ∧ Machine.withinTolerance b.fs b.baseFreq b.transform p j (b.wtWord p j) = true := by
  unfold Build.imageLegal at h
  split at h
  · rename_i hw
    have e : b.wtWord p j = Machine.referenceWord b.fs b.baseFreq b.transform p j := by
      simp only [Build.wtWord, hw]
      exact if_pos ⟨hp, hj⟩
    rw [e]
    exact ⟨Machine.referenceWord_isSample _ _ _ _ _, Machine.referenceWord_withinTolerance _ _ _ _ _⟩
  · rename_i rows hw
    simp only [Bool.and_eq_true, List.all_eq_true, beq_iff_eq, List.mem_range] at h
    obtain ⟨⟨len, form⟩, near⟩ := h
    have row : rows.getD p [] ∈ rows := by
      rw [List.getD_eq_getElem _ _ (by rw [len]; exact hp)]
      exact List.getElem_mem _
    have word : b.wtWord p j ∈ rows.getD p [] := by
      simp only [Build.wtWord, hw]
      rw [List.getD_eq_getElem (rows.getD p []) _ (by rw [(form _ row).1]; exact hj)]
      exact List.getElem_mem _
    exact ⟨(form _ row).2 _ word, near p hp j hj⟩

end Sys2Proof
end

