-- ==== Sys2Proof/Tests/Slice0.lean ====
section
/-! SUPPORT. Tests. Expected values come from spec/95_test_vectors.md (the vector is named) or from the rule cited;
none is the model's own answer. Each theorem is checked before the next is read, so that the slow ones (the reference
image) do not pile up threads. -/

namespace Sys2Proof.Machine

set_option Elab.async false

/-! Well-formedness: each check refuses an ill-formed term (30_encoding.md R66). -/

theorem test_wellFormed_refuses_pitch_16 : ¬ (Instr.sample 16 0).WellFormed := by decide

theorem test_wellFormed_refuses_octave_above : ¬ (Instr.sample 0 16).WellFormed := by decide

theorem test_wellFormed_refuses_octave_below : ¬ (Instr.sample 0 (-17)).WellFormed := by decide

theorem test_wellFormed_refuses_voices_4 : ¬ (Instr.mix 4).WellFormed := by decide

theorem test_wellFormed_accepts_limits : (Instr.sample 15 (-16)).WellFormed ∧ (Instr.mix 3).WellFormed := by decide

/-! Decoding words written out field by field from 30_encoding.md R57: OPC, reserved bits, OCT, PITCH or N or ADV. -/

/-- E1. -/
theorem test_decode_nop : decode 0b0000_0000000000000000000_00000_0000#32 = .ok .nop := by decide

/-- E4: PITCH 1001, OCT 11111. -/
theorem test_decode_sample_octave_minus_1 :
    decode 0b0001_0000000000000000000_11111_1001#32 = .ok (.sample 9 (-1)) := by decide

/-- E5: OCT 10000. -/
theorem test_decode_sample_octave_minus_16 :
    decode 0b0001_0000000000000000000_10000_1001#32 = .ok (.sample 9 (-16)) := by decide

/-- E6: OCT 01111. -/
theorem test_decode_sample_octave_15 :
    decode 0b0001_0000000000000000000_01111_1001#32 = .ok (.sample 9 15) := by decide

/-- E7: PITCH 1100 is legal as a word. -/
theorem test_decode_sample_pitch_12 :
    decode 0b0001_0000000000000000000_00000_1100#32 = .ok (.sample 12 0) := by decide

/-- E11. -/
theorem test_decode_mix : decode 0b0010_0000000000000000000_00000_0011#32 = .ok (.mix 3) := by decide

/-- E13, E14. -/
theorem test_decode_seqRender :
    decode 0b0011_0000000000000000000_00000_0000#32 = .ok (.seqRender false)
      ∧ decode 0b0011_0000000000000000000_00000_0001#32 = .ok (.seqRender true) := by decide

/-- E16. -/
theorem test_decode_seqIndex : decode 0b0100_0000000000000000000_00000_0000#32 = .ok .seqIndex := by decide

/-- E16. -/
theorem test_decode_tick : decode 0b0101_0000000000000000000_00000_0000#32 = .ok .tick := by decide

/-- E16. -/
theorem test_decode_arm : decode 0b0110_0000000000000000000_00000_0000#32 = .ok .arm := by decide

/-- E16. -/
theorem test_decode_disarm : decode 0b0111_0000000000000000000_00000_0000#32 = .ok .disarm := by decide

/-- E9, E12, E15, E17, E18, E19. -/
theorem test_decode_illegal :
    decode 0x10000209#32 = .error (.reservedBits 1#4) ∧ decode 0x20000004#32 = .error (.reservedBits 2#4)
      ∧ decode 0x30000002#32 = .error (.reservedBits 3#4) ∧ decode 0x40000001#32 = .error (.reservedBits 4#4)
      ∧ decode 0x00000001#32 = .error (.reservedBits 0#4) ∧ decode 0x80000000#32 = .error (.reservedOpcode 8#4)
      ∧ decode 0xFFFFFFFF#32 = .error (.reservedOpcode 15#4) := by decide

/-- E4, E5, E8: encoding to the words the vectors give. -/
theorem test_encode_sample :
    encode (.sample 9 (-1)) = 0x100001F9#32 ∧ encode (.sample 9 (-16)) = 0x10000109#32
      ∧ encode (.sample 15 0) = 0x1000000F#32 := by decide

/-- E4, E18: a table row's bits, the ones above them 0. -/
theorem test_decodeTableWord :
    decodeTableWord 32 0x100001F9 = some (.sample 9 (-1)) ∧ decodeTableWord 32 0x80000000 = none := by decide

/-- 30_encoding.md R62: no word selects two rows (each pair of rows differs in a bit both fix). -/
theorem test_opcode_rows_disjoint :
    opcodeRows.Pairwise fun r q => (r.value ^^^ q.value) &&& r.mask &&& q.mask ≠ 0#32 := by decide

/-! The wavetable: vectors W1 to W3, S-2. -/

/-- W1. -/
theorem test_reference_pitch_9 :
    [0, 1, 2, 3, 4, 25, 50, 100, 186, 1000, 1812, 1813].map (referenceWord 44100 0x43DC0000#32 .halfOffset 9)
      = [0x3F000000#32, 0x3F0804DC#32, 0x3F1001A8#32, 0x3F17EE5A#32, 0x3F1FC2FB#32, 0x3F7FFFCB#32, 0x3F00E96E#32,
        0x3EFC5A4D#32, 0x3DD9F9DD#32, 0x3EDBA643#32, 0x3F3CE55C#32, 0x3F43D465#32] := by decide +kernel

/-- W2. -/
theorem test_reference_other_pitches :
    [(0, 0), (0, 1), (0, 3), (0, 1813), (4, 1), (4, 3), (7, 1), (7, 1813), (11, 0), (11, 1)].map
        (fun pj => referenceWord 44100 0x43DC0000#32 .halfOffset pj.1 pj.2)
      = [0x3F000000#32, 0x3F04C528#32, 0x3F0E48AE#32, 0x39A92589#32, 0x3F06025A#32, 0x3F11F97D#32, 0x3F072523#32,
        0x3F54DEA1#32, 0x3F000000#32, 0x3F08FFDE#32] := by decide +kernel

/-- W3. -/
theorem test_reference_offset :
    [0, 1, 2].map (referenceWord 44100 0x43DC0000#32 .offset 9) = [0x3F800000#32, 0x3F8804DC#32, 0x3F9001A8#32] := by
  decide +kernel

/-- 40_wavetable.md R69: each ratio is 2^((p - 9) / 12) rounded down, by its twelfth power. -/
theorem test_pitch_ratios :
    (List.range 12).all fun p =>
      let r := fixedPitchRatios.getD p 0
      decide (r ^ 12 * 2 ^ 9 ≤ 2 ^ (12 * 320 + p)) && decide (2 ^ (12 * 320 + p) < (r + 1) ^ 12 * 2 ^ 9) := by
  decide +kernel

/-! binary32: vectors M2, M5, M7, M10, M11, M12 and the constants. -/

/-- f32(1), f32(2), f32(3) (42_mixer.md R91). -/
theorem test_f32 : f32 1 = 0x3F800000#32 ∧ f32 2 = 0x40000000#32 ∧ f32 3 = 0x40400000#32 := by decide

/-- M5: the running sum and the mean. -/
theorem test_mix_three :
    fadd32 0x3F04C528#32 0x3F06025A#32 = 0x3F8563C1#32 ∧ fadd32 0x3F8563C1#32 0x3F072523#32 = 0x3FC8F652#32
      ∧ meanInOrder [0x3F04C528#32, 0x3F06025A#32, 0x3F072523#32] = 0x3F05F98C#32 := by decide

/-- M7: one ulp above the single note. -/
theorem test_mix_exceeds_by_one_ulp : meanInOrder [0x3F4B16C2#32, 0x3F4B16C2#32, 0x3F4B16C2#32] = 0x3F4B16C3#32 := by
  decide

/-- M10 and M11: the order of the notes shows in the last bit. -/
theorem test_mix_order :
    meanInOrder [0x3F1C63AF#32, 0x3F2397C8#32, 0x3F2A182E#32] = 0x3F235BE2#32
      ∧ meanInOrder [0x3F2A182E#32, 0x3F2397C8#32, 0x3F1C63AF#32] = 0x3F235BE1#32 := by decide

/-- M12. -/
theorem test_mix_small : meanInOrder [0x39A92589#32, 0x39A92589#32, 0x39A92589#32] = 0x39A92589#32 := by decide

/-! The resampler's index: vectors R4, R7, R8, R8b, R11, R12, R14, R15. -/

theorem test_sourceIndex :
    [(1000, 1), (1000, 8), (1, 15), (1813, 15), (1813, -1), (1813, -5), (1813, -11), (1000, -16)].map
        (fun io : Nat × Int => sourceIndex 1814 io.1 io.2)
      = [186, 226, 116, 1698, 906, 56, 0, 0] := by decide

/-! The sequencer: vectors Q4 to Q6, Q10, Q12, Q13 and the counter line after them. -/

/-- q(B). -/
theorem test_elapsedEntries :
    [(127, 44100, 7256), (128, 44100, 7256), (0xFFFFFFFF, 44100, 7256), (17, 88200, 1814), (12345, 3, 2),
        (0xFFFFFFFF, 1, 1)].map (fun q => elapsedEntries Build.default q.2.1 q.2.2 q.1)
      = [31, 32, 1073741823, 34, 761, 176668269] := by decide +kernel

/-- next(B). -/
theorem test_nextBlockCount :
    [(0, 5), (0, 0xFFFFFFFF), (128, 127), (128, 126), (128, 500), (1, 0)].map
        (fun cb => nextBlockCount (BitVec.ofNat 32 cb.1) (BitVec.ofNat 32 cb.2))
      = [6#32, 0#32, 0#32, 127#32, 0#32, 0#32] := by decide

/-! Steps of the default build: one step each, on a small state. -/

/-- The state after one step. -/
def after (s : State) : State := nextOr s (step s)

/-- The default build with one pending cycle in which the host writes v at a byte address. -/
def writing (s : State) (address : Nat) (v : Word) : State :=
  { s with inputs := [{ Cycle.quiet with busWe := true, busAddr := BitVec.ofNat 18 (address / 4), busWdata := v,
                                         completes := false }] }

/-- The default build with one pending cycle in which the host reads a byte address. -/
def reading (s : State) (address : Nat) : State :=
  { s with inputs := [{ Cycle.quiet with busRe := true, busAddr := BitVec.ofNat 18 (address / 4),
                                         completes := false }] }

/-- The default build with one pending `block_tick`. -/
def ticking (s : State) : State := { s with inputs := [{ Cycle.quiet with blockTick := true, completes := false }] }

/-- The command word accepted and about to complete. -/
def running (s : State) (w : Nat) : State := s.withFetchWord 32 w

/-- Armed with SEQ_LEN 4, 44100/3628, CYCLE_BLOCKS 8, BLOCK_COUNT 7, entry 3 = (1, (9, -1)) (vector Q18). -/
def armedQ18 : State :=
  ({ State.reset with armed := true, seqLen := 4#32, seqRateNum := 44100#32, seqRateDen := 3628#32,
                      cycleBlocks := 8#32, blockCount := 7#32 }.setSeqWord 3 0 1#32).setSeqWord 3 1 0x1F9#32

/-- 44_control.md R117's example. -/
theorem test_nop :
    (after (running State.reset 0x00000000)).irqStatus = 1#32
      ∧ (after (running State.reset 0x00000000)).statusWord = 0#32 := by decide +kernel

/-- S-2, program P1's order of events. -/
theorem test_sample :
    (after (running State.reset 0x10000019)).outWord 1 = 0x3F1001A8#32
      ∧ (after (running State.reset 0x10000019)).outWord 1000 = 0x3DD9F9DD#32 := by decide +kernel

/-- S-8. -/
theorem test_sample_pitch_12 :
    (after (running State.reset 0x1000000C)).statusWord = 0x404#32
      ∧ (after (running State.reset 0x1000000C)).errInfo = 0x1000000C#32 := by decide +kernel

/-- M5d, program P2. -/
theorem test_mix :
    (after (running { State.reset with note1 := 4#32, note2 := 7#32 } 0x20000003)).outWord 1813 = 0x3EC83DF3#32 := by
  decide +kernel

/-- M13 and M14. -/
theorem test_mix_errors :
    (after (running State.reset 0x20000000)).statusWord = 0x204#32
      ∧ (after (running { State.reset with note0 := 9#32, note1 := 0xC#32 } 0x20000002)).statusWord = 0x404#32 := by
  decide +kernel

/-- Q14. -/
theorem test_seqIndex_unarmed :
    (after (running State.reset 0x40000000)).statusWord = 0x304#32
      ∧ (after (running State.reset 0x40000000)).errInfo = 0x40000000#32 := by decide +kernel

/-- Q16. -/
theorem test_seqIndex :
    (after (running { State.reset with armed := true, seqLen := 32#32, seqRateNum := 44100#32, seqRateDen := 7256#32,
                                       blockCount := 127#32 } 0x40000000)).curIndex = 31#32 := by decide +kernel

/-- Q17. -/
theorem test_tick :
    (after (running { State.reset with armed := true, blockCount := 0xFFFFFFFF#32 } 0x50000000)).blockCount = 0#32 := by
  decide +kernel

/-- Q18. -/
theorem test_seqRender_adv :
    (after (running armedQ18 0x30000001)).curIndex = 3#32 ∧ (after (running armedQ18 0x30000001)).blockCount = 0#32
      ∧ (after (running armedQ18 0x30000001)).outWord 1 = 0x3F000000#32 := by decide +kernel

/-- Q20. -/
theorem test_seqRender_empty :
    (after (running (armedQ18.setSeqWord 3 0 0#32) 0x30000001)).statusWord = 0x206#32
      ∧ (after (running (armedQ18.setSeqWord 3 0 0#32) 0x30000001)).blockCount = 7#32 := by decide +kernel

/-- K3 and K4. -/
theorem test_arm :
    (after (running { State.reset with seqLen := 33#32, seqRateDen := 1#32 } 0x60000000)).statusWord = 0x304#32
      ∧ (after (running { State.reset with seqLen := 32#32, seqRateDen := 7256#32 } 0x60000000)).statusWord = 0x2#32 := by
  decide +kernel

/-- K8. -/
theorem test_disarm : (after (running armedQ18 0x70000000)).statusWord = 0#32 := by decide +kernel

/-- E18. -/
theorem test_illegal_word :
    (after (running State.reset 0xF0000000)).statusWord = 0x504#32
      ∧ (after (running State.reset 0xF0000000)).errInfo = 0xF0000000#32 := by decide +kernel

/-- K5, K6. -/
theorem test_write_locked :
    (after (writing armedQ18 0x1C 4#32)).statusWord = 0x706#32
      ∧ (after (writing armedQ18 0x10000 1#32)).errInfo = 0x10000#32 := by decide +kernel

/-- K9, K12, W4. -/
theorem test_write_access_error :
    (after (writing State.reset 0x04 0#32)).errInfo = 0x4#32
      ∧ (after (writing State.reset 0x40000 0#32)).statusWord = 0x804#32
      ∧ (after (writing State.reset 0xC8004 0#32)).errInfo = 0xC8004#32 := by decide +kernel

/-- K15, K16, K13. -/
theorem test_write_fields :
    (after (writing State.reset 0x10 0xFFFFFFFF#32)).irqEnable = 0xF#32
      ∧ (after (writing State.reset 0x50 0xFFFFFFFF#32)).note0 = 0x1FF#32
      ∧ (after (writing { State.reset with irqStatus := 0xF#32 } 0x0C 0x5#32)).irqStatus = 0xA#32 := by decide +kernel

/-- K17. -/
theorem test_write_seq : (after (writing State.reset 0x10020 0xFFFFFFFF#32)).seqWord 2 0 = 0x3#32 := by decide +kernel

/-- K18, K20: ignored while halted. -/
theorem test_write_halted :
    (after (writing { State.reset with halted := true, errCode := 2#4 } 0x00 0x10000009#32)).cmd = 0#32
      ∧ (after (writing { State.reset with halted := true, errCode := 2#4 } 0x50 5#32)).note0 = 0#32 := by
  decide +kernel

/-- K23, K24. -/
theorem test_write_busy :
    (after (writing { State.reset with busy := true } 0x50 1#32)).errCode = 6#4
      ∧ (after (writing { State.reset with busy := true } 0x50 1#32)).errInfo = 0x50#32
      ∧ (after (writing { State.reset with busy := true } 0x04 0#32)).errCode = 8#4 := by decide +kernel

/-- K28, W4. -/
theorem test_read :
    (after (reading State.reset 0x30)).busRdata = 1814#32 ∧ (after (reading State.reset 0x34)).busRdata = 44100#32
      ∧ (after (reading State.reset 0x38)).busRdata = 0x43DC0000#32
      ∧ (after (reading State.reset 0xC8004)).busRdata = 0x3F0804DC#32
      ∧ (after (reading State.reset 0xC9C58)).busRdata = 0#32
      ∧ (after (reading State.reset 0xE0000)).busRdata = 0#32 := by decide +kernel

/-- K25, K26, K27. -/
theorem test_block_tick :
    (after (ticking { State.reset with busy := true })).overrunCount = 1#32
      ∧ (after (ticking { State.reset with busy := true })).irqStatus = 0xC#32
      ∧ (after (ticking State.reset)).irqStatus = 0x8#32
      ∧ (after (ticking { State.reset with busy := true, overrunCount := 0xFFFFFFFF#32 })).overrunCount
          = 0xFFFFFFFF#32 := by decide +kernel

/-- K30. -/
theorem test_irq :
    { State.reset with irqEnable := 1#32, irqStatus := 1#32 }.irq = true
      ∧ (after (writing { State.reset with irqEnable := 1#32, irqStatus := 1#32 } 0x0C 1#32)).irq = false := by
  decide +kernel

/-- U11: both strobes are refused. -/
theorem test_both_strobes :
    (match step { State.reset with inputs := [{ Cycle.quiet with busWe := true, busRe := true }] } with
      | .refused .bothStrobes => true
      | _ => false) = true := by decide +kernel

/-- A build of one sample per block and two sequence entries; sin(0) = 0, so the words of its image are T(0) = 0.5. -/
def tiny : Build where
  fs := 1
  bs := 1
  baseFreq := 0x3F800000#32
  transform := .halfOffset
  seqDepth := 2
  wt := .reference

/-- 40_wavetable.md R72, 00_scope.md R11: with T(0) = 0.5 and words 2^-24 apart, 16 of them are within 10^-6 and 17 are
not; neither are a word with its sign bit set, and a row that is not BS words long, legal. -/
theorem test_image_legal :
    [[0x3F000010#32], [0x3F000011#32], [0xBF000000#32], [], [0x3F000000#32, 0x3F000000#32]].map
        (fun row => { tiny with wt := .table (row :: List.replicate 11 [0x3F000000#32]) }.legal)
      = [true, false, false, false, false] := by decide +kernel

/-- 00_scope.md R11: no step of a block with such an image. -/
theorem test_no_such_image :
    (match step (State.resetOf { tiny with wt := .table [] }) with
      | .fault .elaborationFailed => true
      | _ => false) = true := by decide +kernel

/-- 00_scope.md R11: a block of 0 samples cannot be built. -/
theorem test_no_such_build :
    (match step (State.resetOf { Build.default with bs := 0 }) with
      | .fault .elaborationFailed => true
      | _ => false) = true := by decide +kernel

/-! Witnesses: for each statement of Certificates/Slice0/Obligations.lean that has hypotheses, a state and operands
that meet all of them, and for a statement of several clauses one that meets each clause, at a limit of its range. -/

/-- The small build after reset. -/
def idle : State := State.resetOf tiny

/-- The small build with a command word in flight and the given cycles to come. -/
def flying (w : Word) (inputs : List Cycle) : State := { idle with cmd := w, busy := true, inputs := inputs }

/-- The small build, armed, SEQ_LEN at its limit, with one entry per block; entry 1 is ((11, 15), (0, -16)). -/
def armedTiny : State :=
  (((({ idle with armed := true, seqLen := 2#32, seqRateNum := 1#32, seqRateDen := 1#32, blockCount := 1#32
      }).setSeqWord 1 0 2#32).setSeqWord 1 1 0xFB#32).setSeqWord 1 2 0x100#32)

/-- A cycle with a host write that no completion shares. -/
def writeCycle (address : Nat) (v : Word) : Cycle :=
  { Cycle.quiet with busWe := true, busAddr := BitVec.ofNat 18 (address / 4), busWdata := v, completes := false }

theorem witness_DecodeOfEncode : (Instr.sample 15 15).WellFormed ∧ (Instr.sample 0 (-16)).WellFormed := by decide

theorem witness_EncodeOfDecode : decode 0x1000010F#32 = .ok (.sample 15 (-16)) := by decide

theorem witness_IllegalWords : decode (flying 0x80000000#32 []).cmd = .error (.reservedOpcode 8#4) := by decide

theorem witness_NoteFormat : (15 : Nat) ≤ 15 ∧ (-16 : Int) ≤ -16 ∧ (-16 : Int) ≤ 15 := by decide

theorem witness_SampleRendersNote : 11 < 12 := by decide

theorem witness_SampleTrapsOnPitch : 12 ≤ 12 := by decide

theorem witness_MixRendersChord :
    1 ≤ 3 ∧ 3 ≤ 3 ∧ ∀ w ∈ [({ idle with note0 := 0xB#32 }).note0, idle.note1, idle.note2].take 3, w.toNat % 16 < 12 := by
  simp [idle, State.resetOf]

theorem witness_SeqRenderRendersEntry :
    armedTiny.armed = true ∧ 1 = armedTiny.sequenceIndex armedTiny.blockCount.toNat ∧ 1 ≤ armedTiny.entryCount 1
      ∧ ∀ k, k < armedTiny.entryCount 1 → (armedTiny.seqWord 1 (k + 1)).toNat % 16 < 12 := by decide +kernel

theorem witness_SeqIndexSetsCurIndex : armedTiny.armed = true := by decide

theorem witness_TickAdvancesBlockCount : armedTiny.armed = true := by decide

theorem witness_ArmEntersArmed :
    armedTiny.armed = true ∧ { armedTiny with armed := false }.seqLen ≠ 0#32
      ∧ { armedTiny with armed := false }.seqLen.toNat ≤ tiny.seqDepth
      ∧ { armedTiny with armed := false }.seqRateDen ≠ 0#32 := by decide +kernel

theorem witness_MixTrapsInOrder :
    ∃ w ∈ [({ idle with note0 := 0xC#32 }).note0, idle.note1, idle.note2].take 1, 12 ≤ w.toNat % 16 :=
  ⟨0xC#32, by simp, by decide⟩

theorem witness_ConfigurationErrors :
    idle.armed = false ∧ .seqIndex ∈ [Instr.seqIndex, .seqRender false, .seqRender true, .tick] ∧ idle.seqLen = 0#32
      ∧ idle.build.seqDepth < { idle with seqLen := 3#32, seqRateDen := 1#32 }.seqLen.toNat
      ∧ { idle with seqLen := 1#32 }.seqRateDen = 0#32 := by decide

theorem witness_SeqRenderTrapsOnEntry :
    (armedTiny.setSeqWord 1 0 0#32).armed = true ∧ (armedTiny.setSeqWord 1 0 0#32).sequenceIndex 1 = 1
      ∧ (armedTiny.setSeqWord 1 0 0#32).entryCount 1 = 0
      ∧ (armedTiny.setSeqWord 1 2 0xC#32).armed = true ∧ (armedTiny.setSeqWord 1 2 0xC#32).sequenceIndex 1 = 1
      ∧ 1 < (armedTiny.setSeqWord 1 2 0xC#32).entryCount 1
      ∧ 12 ≤ ((armedTiny.setSeqWord 1 2 0xC#32).seqWord 1 2).toNat % 16 := by decide +kernel

theorem witness_FatalErrorsArePrecise :
    idle.halted = false ∧ idle.busy = false ∧ (∃ t, exec (.sample 12 0) idle = .next t ∧ t.halted = true)
      ∧ (idle.hostWrite 0x44 1#32).halted = true := ⟨rfl, rfl, ⟨_, rfl, rfl⟩, by decide +kernel⟩

theorem witness_AbortLeavesOldOrNew :
    (flying 0x60000000#32 []).halted = false ∧ (flying 0x60000000#32 []).busy = true
      ∧ ((flying 0x60000000#32 []).hostWrite 0x50 1#32).halted = true := by
  refine ⟨rfl, rfl, ?_⟩
  decide +kernel

theorem witness_CommandAccepted : idle.halted = false ∧ idle.busy = false := by decide

/-- Armed and not. -/
theorem witness_HostWriteStores :
    armedTiny.halted = false ∧ armedTiny.busy = false ∧ armedTiny.armed = true ∧ idle.halted = false
      ∧ idle.busy = false ∧ idle.armed = false := by decide

theorem witness_SeqWordWritten :
    idle.halted = false ∧ idle.busy = false ∧ idle.armed = false ∧ idle.build.inRange = true ∧ 1 < idle.build.seqDepth
      ∧ 3 < 4 := by decide +kernel

/-- The first and the last address of each clause: reserved, busy and locked. -/
theorem witness_HostWriteErrorsInOrder :
    idle.halted = false ∧ idle.build.inRange = true
      ∧ [0x04, 0x44, 0x10000 + 16 * idle.build.seqDepth, 0xFFFFC].map
          (fun a => (idle.hostWrite (byteAddress (BitVec.ofNat 18 (a / 4))) 1#32).errCode) = [8#4, 8#4, 8#4, 8#4]
      ∧ [0x00, 0x58, 0x10000, 0x10000 + 16 * idle.build.seqDepth - 4].map
          (fun a => ((flying 0#32 []).hostWrite (byteAddress (BitVec.ofNat 18 (a / 4))) 1#32).errCode)
        = [6#4, 6#4, 6#4, 6#4]
      ∧ armedTiny.busy = false ∧ armedTiny.armed = true
      ∧ [0x18, 0x24, 0x10000, 0x10000 + 16 * idle.build.seqDepth - 4].map
          (fun a => (armedTiny.hostWrite (byteAddress (BitVec.ofNat 18 (a / 4))) 1#32).errCode)
        = [7#4, 7#4, 7#4, 7#4] := by decide +kernel

theorem witness_HaltedIgnoresWrites :
    { idle with halted := true, errCode := 2#4 }.halted = true ∧ byteAddress 3#18 = 0x0C ∧ byteAddress 4#18 = 0x10
      ∧ byteAddress 5#18 = 0x14 := by decide

/-- The first and the last register, the last word of each window and the limits of each reserved range. -/
theorem witness_WindowReads :
    idle.busy = false ∧ idle.build.inRange = true ∧ (byteAddress 0#18, idle.cmd) ∈ idle.steadyReads
      ∧ (byteAddress 0x16#18, idle.note2) ∈ idle.steadyReads ∧ byteAddress 5#18 = 0x14 ∧ byteAddress 10#18 = 0x28
      ∧ byteAddress 0x4007#18 = 0x10000 + 16 * 1 + 4 * 3
      ∧ byteAddress 0x10000#18 = 0x40000 + 4 * 0 ∧ byteAddress 0x36000#18 = 0x80000 + 0x8000 * 11 + 4 * 0
      ∧ byteAddress 0x11#18 = 0x44 ∧ byteAddress 0x17#18 = 0x5C
      ∧ byteAddress 0x4008#18 = 0x10000 + 16 * idle.build.seqDepth
      ∧ byteAddress 0x10001#18 = 0x40000 + 4 * idle.build.bs ∧ byteAddress 0x38000#18 = 0xE0000
      ∧ byteAddress 0x36001#18 = 0x80000 + 0x8000 * 11 + 4 * idle.build.bs := by decide +kernel

theorem witness_BusyReads :
    (flying 0#32 []).busy = true ∧ (flying 0#32 []).build.inRange = true ∧ 0 < idle.build.bs
      ∧ (0x00, 0#32) ∈ (flying 0#32 []).steadyReads ∧ (0x58, 0#32) ∈ (flying 0#32 []).steadyReads := by decide +kernel

theorem witness_BlockTickAction : idle.busy = false ∧ (flying 0#32 []).busy = true := by decide

/-- Cycles that write 1 to all four bits: as TICK and DONE are set, as FATAL is, as OVERRUN is, and as none is. -/
theorem witness_SetWinsOverClear :
    let c := { writeCycle 0x0C 0xF#32 with blockTick := true, completes := true }
    let d := writeCycle 0x0C 0xF#32
    let e := { d with completes := true }
    let f := { d with blockTick := true }
    e.rst = false ∧ f.rst = false ∧ (after (flying 0x20000000#32 [e])).halted = true
      ∧ (after (flying 0x20000000#32 [e])).irqStatus = 2#32 ∧ (after (flying 0#32 [f])).busy = true
      ∧ (after (flying 0#32 [f])).irqStatus = 0xC#32 ∧     c.rst = false ∧ c.busWe = true ∧ byteAddress c.busAddr = 0x0C ∧ (flying 0#32 [c]).busy = true
      ∧ (flying 0#32 [c]).halted = false ∧ (after (flying 0#32 [c])).halted = false
      ∧ (after (flying 0#32 [c])).irqStatus = 9#32
      ∧ d.rst = false ∧ d.busWe = true ∧ byteAddress d.busAddr = 0x0C ∧ d.blockTick = false
      ∧ d.busWdata = 0xF#32 ∧ (after { idle with irqStatus := 0xF#32, inputs := [d] }).irqStatus = 0#32 := by
  decide +kernel

/-- A completion, a `block_tick` and a host write to NOTE0 in one cycle. -/
theorem witness_CompletionGoesFirst :
    let c := { writeCycle 0x50 1#32 with blockTick := true, completes := true }
    c.rst = false ∧ c.completes = true ∧ (flying 0#32 [c]).busy = true ∧ (flying 0#32 [c]).halted = false
      ∧ (flying 0#32 [c]).errCode = 0#4 ∧ (flying 0#32 [c]).irqStatus.getLsbD 2 = false
      ∧ (after (flying 0#32 [c])).note0 = 1#32 := by decide +kernel

theorem witness_ResetCycle :
    let c := { Cycle.quiet with rst := true, busWe := true }
    c.rst = true ∧ (c.busWe && c.busRe) = false ∧ (flying 0#32 [c]).build.legal = true := by decide +kernel

theorem witness_StepRunsCommand :
    let s := flying 0x60000000#32 []
    s.build.legal = true ∧ s.halted = false ∧ s.busy = true ∧ s.nextCycle.completes = true ∧ s.nextCycle.rst = false
      ∧ s.nextCycle.blockTick = false ∧ s.nextCycle.busWe = false ∧ s.nextCycle.busRe = false
      ∧ decode s.cmd = .ok .arm := by decide +kernel

theorem witness_WriteThenCompletion :
    let w := writeCycle 0x00 (encode (.sample 11 15))
    let s := { idle with inputs := [w, Cycle.quiet] }
    (Instr.sample 11 15).WellFormed ∧ s.build.legal = true ∧ s.halted = false ∧ s.busy = false
      ∧ s.inputs = [w, Cycle.quiet] ∧ w.rst = false ∧ w.blockTick = false ∧ w.busWe = true ∧ w.busRe = false
      ∧ w.busAddr = 0#18 ∧ w.busWdata = encode (.sample 11 15) ∧ Cycle.quiet.rst = false
      ∧ Cycle.quiet.blockTick = false ∧ Cycle.quiet.busWe = false ∧ Cycle.quiet.busRe = false
      ∧ Cycle.quiet.completes = true := by decide +kernel

theorem witness_StepKeepsBuild : ∃ t, step idle = .next t := ⟨idle, rfl⟩

theorem witness_StepStopsAtBothStrobesAlone :
    idle.build.legal = true ∧ (idle.nextCycle.busWe && idle.nextCycle.busRe) = false
      ∧ (({ idle with inputs := [{ Cycle.quiet with busWe := true, busRe := true }] }).nextCycle.busWe
          && ({ idle with inputs := [{ Cycle.quiet with busWe := true, busRe := true }] }).nextCycle.busRe) = true :=
  ⟨by decide +kernel, rfl, rfl⟩

/-- An armed state with a command in flight that meets the invariant, and its step. -/
theorem witness_StepKeepsInvariant :
    let s := flying 0x10000000#32 []
    s.Inv ∧ ∃ t, step s = .next t ∧ t.mem.length = 4 := by
  refine ⟨⟨by decide +kernel, rfl, ?_, by decide, by decide, fun _ => rfl, by decide, by decide, by decide, by decide,
    by decide, by decide, by decide, by decide⟩, _, rfl, rfl⟩
  intro c hc
  cases hc

theorem witness_HaltedUntilReset :
    let s := { idle with halted := true, errCode := 2#4, inputs := [writeCycle 0x10 1#32] }
    s.halted = true ∧ s.busy = false ∧ (∀ c ∈ s.inputs, c.rst = false) ∧ ∃ t, core.run 2 s = .next t :=
  ⟨rfl, rfl, by decide, _, rfl⟩

theorem witness_InFlightCompletes :
    let s := flying 0x60000000#32 [{ Cycle.quiet with completes := false, blockTick := true }]
    s.build.legal = true ∧ s.busy = true ∧ s.halted = false
      ∧ ∀ c ∈ s.inputs, c.rst = false ∧ c.busWe = false := by decide +kernel

/-- ARM and DISARM each change ARMED. -/
theorem witness_ArmedChangesOnlyBy :
    (∃ t, step { armedTiny with armed := false, busy := true, cmd := 0x60000000#32 } = .next t ∧ t.armed = true)
      ∧ ∃ t, step { armedTiny with busy := true, cmd := 0x70000000#32 } = .next t ∧ t.armed = false :=
  ⟨⟨_, rfl, rfl⟩, _, rfl, rfl⟩

/-- SEQ_RENDER ADV changes both. -/
theorem witness_PositionChangesOnlyBy :
    ∃ t, step { armedTiny with busy := true, cmd := 0x30000001#32 } = .next t ∧ t.blockCount ≠ armedTiny.blockCount
      ∧ t.curIndex ≠ armedTiny.curIndex := ⟨_, rfl, by decide +kernel, by decide +kernel⟩

/-- A word that reads differently and its bytes, and new unspecified contents. -/
theorem witness_OutChangesOnlyBy :
    let s := (flying 0x10000000#32 []).setOut [1#32]
    (∃ t, step s = .next t ∧ t.outWord 0 ≠ s.outWord 0
        ∧ Memory.byteAt t.mem (outAddress 0) ≠ Memory.byteAt s.mem (outAddress 0))
      ∧ ∃ t, step (flying 0#32 [writeCycle 0x50 1#32]) = .next t ∧ t.outFill ≠ (flying 0#32 []).outFill :=
  ⟨⟨_, rfl, by decide +kernel, by decide +kernel⟩, _, rfl, by decide +kernel⟩

/-- A write to the first word of SEQ, which then reads differently, and to the last, a reset, and a write to SEQ_LEN. -/
theorem witness_SequenceLockedWhileArmed :
    (∃ t, step { idle.setSeqWord 0 0 2#32 with inputs := [writeCycle 0x10000 1#32] } = .next t
        ∧ t.seqWord 0 0 ≠ (idle.setSeqWord 0 0 2#32).seqWord 0 0)
      ∧ (∃ t, step { idle with inputs := [{ Cycle.quiet with rst := true }] } = .next t ∧ t.seqFill ≠ idle.seqFill)
      ∧ (∃ t, step { idle with inputs := [writeCycle 0x1001C 1#32] } = .next t
        ∧ Memory.byteAt t.mem 0x1001C ≠ Memory.byteAt idle.mem 0x1001C)
      ∧ ∃ t, step { idle with inputs := [writeCycle 0x1C 1#32] } = .next t ∧ t.seqLen ≠ idle.seqLen :=
  ⟨⟨_, rfl, by decide +kernel⟩, ⟨_, rfl, by decide +kernel⟩, ⟨_, rfl, by decide +kernel⟩, _, rfl, by decide +kernel⟩

/-- Octaves of both signs. -/
theorem witness_SourceIndexRule : 1 ≤ 1 ∧ (0 : Int) ≤ 15 ∧ (-16 : Int) < 0 := by decide

theorem witness_OctaveDoubling :
    11 < 12 ∧ 0 < idle.build.bs ∧ (0 : Int) ≤ 0 ∧ 2 * 0 < idle.build.bs ∧ (-16 : Int) < 0
      ∧ (∃ t, exec (.sample 11 (-16)) idle = .next t) ∧ ∃ u, exec (.sample 11 (-15)) idle = .next u :=
  ⟨by decide, by decide, by decide, by decide, by decide, ⟨_, rfl⟩, _, rfl⟩

theorem witness_ReferenceToneWithinTolerance : ObeysTolerance idle.build := by
  intro p j hp hj
  have hp : p < 12 := hp
  have h0 : j = 0 := Nat.lt_one_iff.1 hj
  subst h0
  have hw : idle.build.wtWord p 0 = 0x3F000000#32 := by interval_cases p <;> decide +kernel
  have hu : sampleUnits 0x3F000000#32 = 2 ^ 148 := by decide +kernel
  rw [hw, sampleValue, hu]
  simp only [idealSample, transformed, idle, State.resetOf, tiny, Nat.cast_zero, mul_zero, zero_div, Real.sin_zero]
  norm_num

theorem witness_AdditionRoundsToNearest :
    isSample 0x7F7FFFFF#32 = true ∧ isSample 0x00000001#32 = true ∧ isSample 0x7EFFFFFF#32 = true
      ∧ sampleUnits 0x7EFFFFFF#32 + sampleUnits 0x7EFFFFFF#32 ≤ (2 ^ 24 - 1) * 2 ^ 253 := by decide +kernel

theorem witness_DivisionRoundsToNearest :
    isSample 0x40100002#32 = true ∧ isSample 0x40400000#32 = true ∧ sampleUnits 0x40400000#32 ≠ 0
      ∧ sampleUnits 0x40100002#32 * 2 ^ 149 ≤ (2 ^ 24 - 1) * 2 ^ 253 * sampleUnits 0x40400000#32 := by decide +kernel

theorem witness_OneNoteMixIsSample :
    isSample 0x3F000000#32 = true ∧ idle.build.imageLegal = true ∧ (Note.ofWord idle.note0).pitch < 12 := by
  decide +kernel

/-- R95's own example. -/
theorem witness_MixIsBounded :
    (0x3F400002#32).toNat ≤ (0x3F400002#32).toNat ∧ (0x3F400002#32).toNat < 0x7E000000
      ∧ meanInOrder [0x3F400002#32, 0x3F400002#32, 0x3F400002#32] = 0x3F400003#32 := by decide +kernel

/-- NOTE1 differs and is not used. -/
theorem witness_MixDependsOnNotesAndRom :
    let s' := { idle with note1 := 5#32, mem := [], blockCount := 3#32 }
    idle.build = s'.build ∧ [idle.note0, idle.note1, idle.note2].take 1 = [s'.note0, s'.note1, s'.note2].take 1
      ∧ (∃ t, exec (.mix 1) idle = .next t ∧ t.halted = false)
      ∧ (∃ t, exec (.mix 1) s' = .next t ∧ t.halted = false) ∧ 0 < idle.build.bs :=
  ⟨rfl, rfl, ⟨_, rfl, rfl⟩, ⟨_, rfl, rfl⟩, by decide⟩

theorem witness_ElapsedEntriesExact :
    1 ≤ armedTiny.build.fs ∧ armedTiny.seqRateDen ≠ 0#32 ∧ armedTiny.seqLen ≠ 0#32 := by decide +kernel

/-- One entry every 4 blocks of the default build, 32 entries (43_sequencer.md R102). -/
theorem witness_OneEntryEveryPBlocks :
    Build.default.inRange = true ∧ 1 ≤ 4 ∧ Build.default.bs * 4 < 2 ^ 32 ∧ 1 ≤ 32 ∧ (128#32).toNat = 4 * 32
      ∧ (126#32).toNat + 1 < 4 * 32 ∧ (127#32).toNat + 1 = 4 * 32 := by decide +kernel

theorem witness_IndexAdvancesSteadily :
    1 ≤ tiny.fs ∧ 1 ≤ tiny.bs * 1 ∧ tiny.bs * 1 ≤ tiny.fs * 1 := by decide

/-- C = SEQ_LEN at one entry per block. -/
theorem witness_CycleBlocksLosesNothing :
    1 ≤ armedTiny.build.fs ∧ armedTiny.seqRateDen ≠ 0#32 ∧ armedTiny.seqLen ≠ 0#32
      ∧ 2 * (armedTiny.build.bs * armedTiny.seqRateNum.toNat)
        = armedTiny.seqLen.toNat * (armedTiny.build.fs * armedTiny.seqRateDen.toNat) := by decide +kernel

end Sys2Proof.Machine
end

section
/-! PROOFS. What a cycle does to the list of cycles to come, and when a legal build's step stops
(00_scope.md R9, 70_reset_and_hazards.md R151). -/

namespace Sys2Proof.Machine

/-! No event of a cycle touches the cycles to come: they belong to the outside world (log 2). -/

@[simp] theorem State.writeLocation_inputs (s : State) (v : Word) (l : Location) :
    (s.writeLocation v l).inputs = s.inputs := by rw [writeLocation_frame]

@[simp] theorem State.failWrite_inputs (s : State) (code : ErrorCode) (a : Nat) :
    (s.failWrite code a).inputs = s.inputs := by
  cases h : s.busy with
  | false => rw [failWrite_idle h, State.raiseFatal_inputs]
  | true => rw [failWrite_busy h, State.raiseFatal_inputs, State.abortCommand_inputs]

@[simp] theorem State.hostWrite_inputs (s : State) (a : Nat) (v : Word) : (s.hostWrite a v).inputs = s.inputs := by
  rcases hostWrite_cases s a v with ⟨-, -, h⟩ | ⟨-, h⟩ | ⟨-, code, h⟩ | ⟨-, -, -, -, h⟩ <;> simp [h]

@[simp] theorem clearTurn_inputs (c : Cycle) (s : State) : (clearTurn c s).inputs = s.inputs := by
  rw [clearTurn_frame]

@[simp] theorem tickTurn_inputs (c : Cycle) (s : State) : (tickTurn c s).inputs = s.inputs := by
  rw [tickTurn_frame]

@[simp] theorem hostTurn_inputs (c : Cycle) (s : State) : (hostTurn c s).inputs = s.inputs := by
  rcases hostTurn_cases c s with ⟨-, -, write⟩ | read
  · rw [write, State.hostWrite_inputs]
  · rw [read]

theorem engineTurn_inputs {c : Cycle} {s t : State} (h : engineTurn c s = .next t) : t.inputs = s.inputs := by
  rw [engineTurn_frame h]

/-! When a cycle and a step stop. -/

/-- Both strobes high stop a cycle before anything else of it is looked at, `rst` included (log 13, log 16). -/
theorem clockCycle_bothStrobes {c : Cycle} (h : (c.busWe && c.busRe) = true) (s : State) :
    clockCycle c s = .refused .bothStrobes := if_pos h

/-- Any other cycle goes on: a reset always does, and otherwise the engine's turn, the one part that could stop,
never stops. -/
theorem clockCycle_next {c : Cycle} (h : (c.busWe && c.busRe) = false) (s : State) :
    ∃ t, clockCycle c s = .next t ∧ t.inputs = s.inputs := by
  cases hr : c.rst with
  | true => exact ⟨s.applyReset, by simp [clockCycle, h, hr], s.applyReset_inputs⟩
  | false =>
    obtain ⟨u, hu⟩ := engineTurn_next c (clearTurn c s)
    refine ⟨hostTurn c (tickTurn c u), by simp [clockCycle, h, hr, hu], ?_⟩
    rw [hostTurn_inputs, tickTurn_inputs, engineTurn_inputs hu, clearTurn_inputs]

/-- A block that can be built runs its next cycle. -/
theorem step_of_legal {s : State} (h : s.build.legal = true) : step s = clockCycle s.nextCycle s.takeCycle := if_pos h

/-- Settles O37: a step of a legal build is one cycle, and a cycle stops at both strobes alone. -/
theorem stepStopsAtBothStrobesAlone : Obligations.StepStopsAtBothStrobesAlone := by
  intro s legal
  rw [step_of_legal legal]
  exact ⟨fun h => clockCycle_next h s.takeCycle, fun h => clockCycle_bothStrobes h s.takeCycle⟩

end Sys2Proof.Machine
end

section
/-! PROOFS. Every step keeps the invariant of a built block (10_state.md R20 to R23, R28, R31). -/

namespace Sys2Proof.Machine

/-! A command's completion as a state: `complete` never stops, so `nextOr` always takes its next state. -/

theorem complete_eq_next (s : State) : complete s = .next (nextOr s (complete s)) := by
  rcases complete_cases s with ⟨code, h, -⟩ | ⟨i, t, -, h, -⟩ <;> rw [h, nextOr_next]

/-- What a completion leaves as it was, with or without an error of the command. -/
theorem complete_frame (s : State) :
    let t := nextOr s (complete s)
    t = { s with mem := t.mem, curIndex := t.curIndex, blockCount := t.blockCount, armed := t.armed, busy := false,
                 irqStatus := t.irqStatus, errCode := t.errCode, errInfo := t.errInfo, halted := t.halted } := by
  rcases complete_cases s with ⟨code, h, -⟩ | ⟨i, t, -, h, done⟩
  · rw [h]
    rfl
  · rw [h, nextOr_next, done.frame]

theorem complete_build (s : State) : (nextOr s (complete s)).build = s.build := by rw [complete_frame]

theorem complete_busy (s : State) : (nextOr s (complete s)).busy = false := by rw [complete_frame]

/-! The bits of IRQ_STATUS above the four pending bits stay 0 (10_state.md R22). -/

theorem pending_or {v bits : Word} (hv : v.toNat < 16) (hb : bits.toNat < 16) : (v ||| bits).toNat < 16 := by
  rw [BitVec.toNat_or]
  exact Nat.or_lt_two_pow (n := 4) hv hb

theorem and_toNat_le_right (v mask : Word) : (v &&& mask).toNat ≤ mask.toNat := by
  rw [BitVec.toNat_and]
  exact Nat.and_le_right

theorem and_toNat_le_left (v mask : Word) : (v &&& mask).toNat ≤ v.toNat := by
  rw [BitVec.toNat_and]
  exact Nat.and_le_left

/-! Registers and memory. -/

/-- SEQ_INDEX and SEQ_RENDER name an entry the memory has, since ARM checked 1 <= SEQ_LEN <= SEQ_DEPTH. -/
theorem sequenceIndex_lt {s : State} (h : s.configurationOk = true) (blocks : Nat) :
    s.sequenceIndex blocks < s.build.seqDepth := by
  simp only [State.configurationOk, Bool.and_eq_true, bne_iff_ne, decide_eq_true_eq] at h
  obtain ⟨⟨nonempty, fits⟩, -⟩ := h
  have : 0 < s.seqLen.toNat := by
    rw [Nat.pos_iff_ne_zero]
    exact fun e => nonempty (BitVec.eq_of_toNat_eq e)
  exact (Nat.mod_lt _ this).trans_le fits

/-- The registers of the sequencer's configuration are RW-L (10_state.md R15). -/
theorem configuration_locks {b : Build} {a : Nat} {r : Reg} {x : Access} (h : locate b a = .register r x)
    (hr : r = .cycleBlocks ∨ r = .seqLen ∨ r = .seqRateNum ∨ r = .seqRateDen) :
    (Location.register r x).locks = true := by
  have row := locate_register h
  have access : x = .lockedWhileArmed := by
    rcases hr with rfl | rfl | rfl | rfl <;> exact (by simpa [registerTable] using row : a = _ ∧ x = _).2
  rw [access]
  rfl

/-- A word the address map places in SEQ lies inside the entries the build has, and below OUT. -/
theorem locate_seq_bounds {b : Build} {a e w : Nat} (h : locate b a = .seq e w) :
    seqBase ≤ seqAddress e w ∧ seqAddress e w + 4 ≤ seqBase + 16 * b.seqDepth ∧ seqAddress e w + 4 ≤ outBase := by
  obtain ⟨depth, he, hw, -, top⟩ := locate_seq h
  simp only [seqAddress, seqBase, outBase] at *
  omega

theorem store_mapped {b : Build} {m : List Host.Cell} (h : ∀ c ∈ m, InWindows b c.1) {start : Nat} {bytes : List Byte}
    (hb : ∀ a, start ≤ a → a < start + bytes.length → InWindows b a) :
    ∀ c ∈ Memory.store m start bytes, InWindows b c.1 := by
  intro c hc
  rcases Memory.mem_store hc with old | ⟨low, high⟩
  · exact h c old
  · exact hb c.1 low high

/-! The invariant through each operation of a cycle. -/

namespace State.Inv

variable {s : State}

theorem takeCycle (h : s.Inv) : s.takeCycle.Inv := { h with }

theorem clearPending (h : s.Inv) (v : Word) : (s.clearPending v).Inv :=
  { h with pendingReserved := (and_toNat_le_left _ _).trans_lt h.pendingReserved }

theorem blockTickEvent (h : s.Inv) : s.blockTickEvent.Inv :=
  { h with pendingReserved := pending_or h.pendingReserved (by split <;> decide) }

/-- Reset leaves an empty memory, no error, and entry 0, which every build has. -/
theorem applyReset (h : s.Inv) : s.applyReset.Inv where
  buildLegal := h.buildLegal
  memCanonical := rfl
  memMapped c hc := nomatch hc
  haltedExactly := by simp
  codeRaised := by simp
  infoOfError _ := rfl
  haltedIdle _ := rfl
  pendingReserved := by simp
  enableReserved := by simp
  note0Reserved := by simp
  note1Reserved := by simp
  note2Reserved := by simp
  armedChecked ha := nomatch ha
  indexMapped := by
    obtain ⟨-, -, -, -, entries, -⟩ := inRange_bounds (Build.legal_inRange h.buildLegal)
    exact entries

/-- A fatal error raises one of the codes 2 to 8 and leaves no command in flight (60_exceptions.md R121, R124). -/
theorem raiseFatal (h : s.Inv) (code : ErrorCode) (info : Word) : (s.raiseFatal code info).Inv :=
  have raised : code.bits ≠ 0#4 ∧ code.bits.toNat ≤ 8 ∧ code.bits ≠ 1#4 := by cases code <;> decide
  { h with
    haltedExactly := ⟨fun _ => raised.1, fun _ => rfl⟩
    codeRaised := raised.2
    infoOfError := fun none => absurd none raised.1
    haltedIdle := fun _ => rfl
    pendingReserved := pending_or h.pendingReserved (by decide) }

/-- A command that completes without error writes the words of OUT, an entry's number, and ARMED after its check. -/
theorem completed (h : s.Inv) {i : Instr} {t : State} (done : Completed i s t) : t.Inv := by
  have canonical : Memory.wf t.mem = true := by
    rcases done.mem with same | ⟨-, ws, -, stored⟩
    · rw [same]
      exact h.memCanonical
    · rw [stored]
      exact Memory.store_wf h.memCanonical _ _
  have mapped : ∀ c ∈ t.mem, InWindows s.build c.1 := by
    rcases done.mem with same | ⟨-, ws, size, stored⟩
    · rw [same]
      exact h.memMapped
    · rw [stored]
      refine store_mapped h.memMapped fun a low high => .inr ⟨low, ?_⟩
      rwa [flatMap_wordBytes_length, size] at high
  have index : t.curIndex.toNat < s.build.seqDepth := by
    rcases done.curIndex with same | ⟨-, armed, entry⟩
    · rw [same]
      exact h.indexMapped
    · rw [entry]
      exact (Nat.mod_le _ _).trans_lt (sequenceIndex_lt (h.armedChecked armed) _)
  have checked : t.armed = true → s.configurationOk = true := by
    rcases done.armed with same | ⟨-, disarmed⟩ | ⟨-, -, ok⟩
    · rw [same]
      exact h.armedChecked
    · simp [disarmed]
    · exact fun _ => ok
  rw [done.frame]
  exact { h with
    memCanonical := canonical
    memMapped := mapped
    haltedIdle := fun _ => rfl
    pendingReserved := pending_or h.pendingReserved (by decide)
    armedChecked := checked
    indexMapped := index }

theorem complete (h : s.Inv) : (nextOr s (complete s)).Inv := by
  rcases complete_cases s with ⟨code, e, -⟩ | ⟨i, t, -, e, done⟩
  · rw [e]
    exact h.raiseFatal code s.cmd
  · rw [e]
    exact h.completed done

theorem engineTurn (h : s.Inv) {c : Cycle} {t : State} (ht : engineTurn c s = .next t) : t.Inv := by
  rcases engineTurn_cases c s with ⟨e, -⟩ | ⟨e, -⟩ <;> rw [e] at ht
  · cases ht
    exact h
  · rw [complete_eq_next] at ht
    cases ht
    exact h.complete

/-- Each register an abort leaves is the old one or the completed command's, and the invariant holds of both
(60_exceptions.md R126). -/
theorem abortCommand (h : s.Inv) : s.abortCommand.Inv := by
  obtain ⟨frame, index, -, armed⟩ := abortCommand_cases s
  have mapped : s.abortCommand.curIndex.toNat < s.build.seqDepth := by
    rcases index with old | new
    · rw [old]
      exact h.indexMapped
    · rw [new, ← complete_build s]
      exact h.complete.indexMapped
  have checked : s.abortCommand.armed = true → s.configurationOk = true := by
    rcases armed with old | new
    · rw [old]
      exact h.armedChecked
    · intro ha
      have ok := h.complete.armedChecked (new ▸ ha)
      rwa [complete_frame] at ok
  rw [frame]
  exact { h with
    memCanonical := Memory.forget_wf h.memCanonical _ _
    memMapped := fun c hc => h.memMapped c (List.mem_filter.1 hc).1
    armedChecked := checked
    indexMapped := mapped }

theorem failWrite (h : s.Inv) (code : ErrorCode) (a : Nat) : (s.failWrite code a).Inv := by
  cases hb : s.busy with
  | false =>
    rw [failWrite_idle hb]
    exact h.raiseFatal _ _
  | true =>
    rw [failWrite_busy hb]
    exact h.abortCommand.raiseFatal _ _

theorem setSeqWord (h : s.Inv) {a e w : Nat} (hl : locate s.build a = .seq e w) (v : Word) : (s.setSeqWord e w v).Inv :=
  { h with
    memCanonical := Memory.store_wf h.memCanonical _ _
    memMapped := by
      obtain ⟨low, high, -⟩ := locate_seq_bounds hl
      refine store_mapped h.memMapped fun b hb hb' => .inl ⟨low.trans hb, ?_⟩
      exact lt_of_lt_of_le (by simpa using hb') high }

/-- The two interrupt registers may be written in every phase: their masks keep the reserved bits 0. -/
theorem writeIrqRegister (h : s.Inv) (v : Word) {l : Location} (hl : l.isIrqRegister = true) :
    (s.writeLocation v l).Inv := by
  cases l with
  | register r x =>
    cases r with
    | irqStatus => exact h.clearPending v
    | irqEnable => exact { h with enableReserved := (and_toNat_le_right v 0xF#32).trans_lt (by decide) }
    | _ => cases hl
  | _ => cases hl

theorem writeRegister (h : s.Inv) (v : Word) {r : Reg} (running : s.halted = false)
    (unlocked : r = .seqLen ∨ r = .seqRateDen → s.armed = false) : (s.writeRegister v r).Inv := by
  have note : (v &&& 0x1FF#32).toNat < 512 := (and_toNat_le_right v 0x1FF#32).trans_lt (by decide)
  cases r with
  | cmd => exact { h with haltedIdle := fun halted => absurd (running.symm.trans halted) (by decide) }
  | irqStatus => exact h.clearPending v
  | irqEnable => exact { h with enableReserved := (and_toNat_le_right v 0xF#32).trans_lt (by decide) }
  | seqLen | seqRateDen =>
    have idle := unlocked (by simp)
    exact { h with armedChecked := fun armed => absurd (idle.symm.trans armed) (by decide) }
  | note0 => exact { h with note0Reserved := note }
  | note1 => exact { h with note1Reserved := note }
  | note2 => exact { h with note2Reserved := note }
  | blockCount | cycleBlocks | seqRateNum => exact { h with }
  | status | errInfo | curIndex | overrunCount | paramBlockSize | paramSamplingRate | paramBaseFreq | paramSeqDepth
  | paramTransform => exact h

theorem writeLocation (h : s.Inv) (v : Word) {a : Nat} (running : s.halted = false)
    (unlocked : (s.armed && (locate s.build a).locks) = false) : (s.writeLocation v (locate s.build a)).Inv := by
  cases hl : locate s.build a with
  | register r x =>
    refine h.writeRegister v running fun hr => ?_
    have locks := configuration_locks hl (by tauto)
    simpa [hl, locks] using unlocked
  | seq e w => exact h.setSeqWord hl v
  | out j => exact h
  | wt p j => exact h
  | reserved => exact h

theorem hostWrite (h : s.Inv) (a : Nat) (v : Word) : (s.hostWrite a v).Inv := by
  rcases hostWrite_cases s a v with ⟨-, -, e⟩ | ⟨irq, e⟩ | ⟨-, code, e⟩ | ⟨running, -, -, unlocked, e⟩ <;> rw [e]
  · exact h
  · exact h.writeIrqRegister v irq
  · exact h.failWrite code a
  · exact h.writeLocation v running unlocked

theorem hostTurn (h : s.Inv) (c : Cycle) : (hostTurn c s).Inv := by
  rcases hostTurn_cases c s with ⟨-, -, write⟩ | read
  · rw [write]
    exact h.hostWrite _ _
  · rw [read]
    exact { h with }

theorem clearTurn (h : s.Inv) (c : Cycle) : (clearTurn c s).Inv := by
  unfold Machine.clearTurn
  split
  · exact h.clearPending _
  · exact h

theorem tickTurn (h : s.Inv) (c : Cycle) : (tickTurn c s).Inv := by
  unfold Machine.tickTurn
  split
  · exact h.blockTickEvent
  · exact h

end State.Inv

/-- Settles O40: a reset meets the invariant, and so does each turn of a cycle, one after another. -/
theorem stepKeepsInvariant : Obligations.StepKeepsInvariant := by
  intro s t h hs
  obtain ⟨-, -, ⟨-, rfl⟩ | ⟨-, u, hu, rfl⟩⟩ := step_cases hs
  · exact h.takeCycle.applyReset
  · exact (((h.takeCycle.clearTurn _).engineTurn hu).tickTurn _).hostTurn _

end Sys2Proof.Machine
end

section
/-! PROOFS. What can change the data of the block: its build, its sequencer registers and notes, ARMED and its memories.
One inversion of the step names the four causes; each statement then asks them of one view of the data
(10_state.md R24, R28, R30, R33, R34). -/

namespace Sys2Proof.Machine

/-- A view of the state that sees the data alone: none of the command word, the flags, the error and interrupt
registers, OVERRUN_COUNT, and the model's own fields for draws, the read bus and the cycles to come. -/
def SeesDataOnly {α : Type} (view : State → α) : Prop :=
  ∀ s t : State,
    t = { s with cmd := t.cmd, busy := t.busy, halted := t.halted, errCode := t.errCode, errInfo := t.errInfo,
                 irqStatus := t.irqStatus, irqEnable := t.irqEnable, overrunCount := t.overrunCount,
                 draws := t.draws, busRdata := t.busRdata, inputs := t.inputs } →
    view t = view s

/-- Why a step from `s` to `t` changed a view of the data. -/
inductive ChangeCause {α : Type} (view : State → α) (s t : State) : Prop where
  /-- Reset overrides everything else of its cycle (70_reset_and_hazards.md R141). -/
  | reset (rst : s.nextCycle.rst = true) (result : t = s.takeCycle.applyReset)
  /-- The command in flight completed, from the state `p` (44_control.md R114). -/
  | completion (busy : s.busy = true) (running : s.halted = false) (p : State) (word : p.cmd = s.cmd)
      (changed : view (nextOr p (complete p)) ≠ view p)
  /-- A fatal host write aborted the command in flight, in the state `p` (60_exceptions.md R126). -/
  | abort (busy : s.busy = true) (running : s.halted = false) (write : s.nextCycle.busWe = true)
      (halts : t.halted = true) (p : State) (word : p.cmd = s.cmd) (changed : view p.abortCommand ≠ view p)
  /-- A host write to an unlocked location stored its value, in the state `p` (20_memory.md R45). -/
  | write (write : s.nextCycle.busWe = true) (p : State) (v : Word) (l : Location)
      (located : l = locate p.build (byteAddress s.nextCycle.busAddr)) (unlocked : (p.armed && l.locks) = false)
      (stores : t = p.writeLocation v l) (changed : view (p.writeLocation v l) ≠ view p)

/-- The engine's turn does nothing, or it completes the command in flight and then leaves none in flight. -/
theorem engineTurn_completes {c : Cycle} {s t : State} (h : engineTurn c s = .next t) :
    t = s ∨ (s.busy = true ∧ s.halted = false ∧ t.busy = false ∧ t = nextOr s (complete s)) := by
  rcases engineTurn_cases c s with ⟨e, -⟩ | ⟨e, -, busy, running⟩ <;> rw [e] at h
  · cases h
    exact .inl rfl
  · rw [complete_eq_next] at h
    cases h
    exact .inr ⟨busy, running, complete_busy s, rfl⟩

namespace SeesDataOnly

variable {α : Type} {view : State → α} (hv : SeesDataOnly view)
include hv

theorem takeCycle (s : State) : view s.takeCycle = view s := hv s _ rfl

theorem clearTurn (c : Cycle) (s : State) : view (clearTurn c s) = view s :=
  hv s _ (by rw [clearTurn_frame])

theorem tickTurn (c : Cycle) (s : State) : view (tickTurn c s) = view s :=
  hv s _ (by rw [tickTurn_frame])

theorem raiseFatal (s : State) (code : ErrorCode) (info : Word) : view (s.raiseFatal code info) = view s := hv s _ rfl

theorem writeIrqRegister (s : State) (v : Word) {l : Location} (hl : l.isIrqRegister = true) :
    view (s.writeLocation v l) = view s := by
  cases l with
  | register r x =>
    cases r with
    | irqStatus | irqEnable => exact hv s _ rfl
    | _ => cases hl
  | _ => cases hl

/-- A host write changes the data by the abort it causes, or by storing its value where that is not locked. -/
theorem hostWrite {s : State} {a : Nat} {v : Word} (changed : view (s.hostWrite a v) ≠ view s) :
    (s.busy = true ∧ s.halted = false ∧ (s.hostWrite a v).halted = true ∧ view s.abortCommand ≠ view s)
      ∨ ((s.armed && (locate s.build a).locks) = false ∧ s.hostWrite a v = s.writeLocation v (locate s.build a)) := by
  rcases hostWrite_cases s a v with ⟨-, -, e⟩ | ⟨irq, e⟩ | ⟨running, code, e⟩ | ⟨-, -, -, unlocked, e⟩
  · exact absurd (congrArg view e) changed
  · exact absurd ((congrArg view e).trans (hv.writeIrqRegister s v irq)) changed
  · cases hb : s.busy with
    | false =>
      rw [e, failWrite_idle hb, hv.raiseFatal] at changed
      exact absurd rfl changed
    | true =>
      rw [e, failWrite_busy hb] at changed ⊢
      rw [hv.raiseFatal] at changed
      exact .inl ⟨rfl, running, rfl, changed⟩
  · exact .inr ⟨unlocked, e⟩

/-- The host's turn changes the data by a host write alone. -/
theorem hostTurn {c : Cycle} {s : State} (changed : view (hostTurn c s) ≠ view s) :
    c.busWe = true ∧ hostTurn c s = s.hostWrite (byteAddress c.busAddr) c.busWdata := by
  rcases hostTurn_cases c s with ⟨we, -, e⟩ | e
  · exact ⟨we, e⟩
  · exact absurd (hv s _ (by rw [e])) changed

end SeesDataOnly

/-- What a step that changed a view of the data did. -/
theorem step_changeCause {α : Type} {view : State → α} (hv : SeesDataOnly view) {s t : State} (h : step s = .next t)
    (changed : view t ≠ view s) : ChangeCause view s t := by
  obtain ⟨-, -, ⟨rst, result⟩ | ⟨-, u, hu, rfl⟩⟩ := step_cases h
  · exact .reset rst result
  generalize hp : clearTurn s.nextCycle s.takeCycle = p at hu
  have sameView : view p = view s := by rw [← hp, hv.clearTurn, hv.takeCycle]
  obtain ⟨word, busy, halted⟩ : p.cmd = s.cmd ∧ p.busy = s.busy ∧ p.halted = s.halted := by
    rw [← hp, clearTurn_frame]
    exact ⟨rfl, rfl, rfl⟩
  by_cases completed : view u = view p
  · generalize hq : tickTurn s.nextCycle u = q at changed ⊢
    have tickView : view q = view u := by rw [← hq, hv.tickTurn]
    obtain ⟨tickWord, tickBusy, tickHalted⟩ : q.cmd = u.cmd ∧ q.busy = u.busy ∧ q.halted = u.halted := by
      rw [← hq, tickTurn_frame]
      exact ⟨rfl, rfl, rfl⟩
    rw [← sameView, ← completed, ← tickView] at changed
    obtain ⟨we, e⟩ := hv.hostTurn changed
    rw [e] at changed ⊢
    rcases hv.hostWrite changed with ⟨qBusy, qRunning, halts, aborts⟩ | ⟨unlocked, stores⟩
    · rcases engineTurn_completes hu with rfl | ⟨-, -, idle, -⟩
      · exact .abort (busy ▸ tickBusy ▸ qBusy) (halted ▸ tickHalted ▸ qRunning) we halts q (tickWord.trans word) aborts
      · exact absurd (idle.symm.trans (tickBusy ▸ qBusy)) (by decide)
    · exact .write we q _ _ rfl unlocked stores (stores ▸ changed)
  · rcases engineTurn_completes hu with rfl | ⟨pBusy, pRunning, -, rfl⟩
    · exact absurd rfl completed
    · exact .completion (busy ▸ pBusy) (halted ▸ pRunning) p word completed

/-! The build. -/

theorem seesDataOnly_build : SeesDataOnly State.build := fun s t h => by rw [h]

theorem writeLocation_build (s : State) (v : Word) (l : Location) : (s.writeLocation v l).build = s.build := by
  rw [writeLocation_frame]

/-- Settles O38: no cause of a change touches the build, and a reset keeps it. -/
theorem stepKeepsBuild : Obligations.StepKeepsBuild := by
  intro s t h
  by_contra changed
  cases step_changeCause seesDataOnly_build h changed with
  | reset _ result => exact changed (by rw [result, State.applyReset_build, State.takeCycle_build])
  | completion _ _ p _ completes => exact completes (complete_build p)
  | abort _ _ _ _ p _ aborts => exact aborts p.abortCommand_build
  | write _ p v l _ _ _ stores => exact stores (writeLocation_build p v l)

/-! The sequencer's position. -/

theorem seesDataOnly_blockCount : SeesDataOnly State.blockCount := fun s t h => by rw [h]

theorem seesDataOnly_curIndex : SeesDataOnly State.curIndex := fun s t h => by rw [h]

/-- A completion that changes BLOCK_COUNT is one of TICK or SEQ_RENDER ADV (43_sequencer.md R101). -/
theorem complete_blockCount {s : State} (h : (nextOr s (complete s)).blockCount ≠ s.blockCount) :
    decode s.cmd = .ok .tick ∨ decode s.cmd = .ok (.seqRender true) := by
  rcases complete_cases s with ⟨code, e, -⟩ | ⟨i, t, hi, e, done⟩ <;> rw [e] at h
  · exact absurd rfl h
  · rcases done.blockCount with same | ⟨rfl | rfl, -⟩
    · exact absurd same h
    · exact .inl hi
    · exact .inr hi

/-- A completion that changes CUR_INDEX is one of SEQ_INDEX or SEQ_RENDER (43_sequencer.md R103, R104). -/
theorem complete_curIndex {s : State} (h : (nextOr s (complete s)).curIndex ≠ s.curIndex) :
    decode s.cmd = .ok .seqIndex ∨ ∃ adv, decode s.cmd = .ok (.seqRender adv) := by
  rcases complete_cases s with ⟨code, e, -⟩ | ⟨i, t, hi, e, done⟩ <;> rw [e] at h
  · exact absurd rfl h
  · rcases done.curIndex with same | ⟨rfl | ⟨adv, rfl⟩, -⟩
    · exact absurd same h
    · exact .inl hi
    · exact .inr ⟨adv, hi⟩

/-- An abort gives a register the completed command's value if it changes it at all (60_exceptions.md R126). -/
theorem abortCommand_blockCount {s : State} (h : s.abortCommand.blockCount ≠ s.blockCount) :
    (nextOr s (complete s)).blockCount ≠ s.blockCount := by
  obtain ⟨-, -, old | new, -⟩ := abortCommand_cases s
  · exact absurd old h
  · rwa [← new]

theorem abortCommand_curIndex {s : State} (h : s.abortCommand.curIndex ≠ s.curIndex) :
    (nextOr s (complete s)).curIndex ≠ s.curIndex := by
  obtain ⟨-, old | new, -, -⟩ := abortCommand_cases s
  · exact absurd old h
  · rwa [← new]

/-- The one host write that changes BLOCK_COUNT is the one to its address (10_state.md R15). -/
theorem writeLocation_blockCount {s : State} {v : Word} {a : Nat}
    (h : (s.writeLocation v (locate s.build a)).blockCount ≠ s.blockCount) : a = 0x14 := by
  cases hl : locate s.build a with
  | register r x =>
    rw [hl] at h
    cases r with
    | blockCount =>
      have row : a = 0x14 ∧ x = .readWrite := by simpa [registerTable] using locate_register hl
      exact row.1
    | _ => exact absurd rfl h
  | _ => exact absurd (by rw [hl]; rfl) h

theorem writeLocation_curIndex (s : State) (v : Word) (l : Location) : (s.writeLocation v l).curIndex = s.curIndex := by
  rw [writeLocation_frame]

/-- A step that changes BLOCK_COUNT had a reset, a write to it, or a command in flight that advances it. -/
theorem step_blockCount {s t : State} (h : step s = .next t) (changed : t.blockCount ≠ s.blockCount) :
    s.nextCycle.rst = true
      ∨ (s.nextCycle.busWe = true ∧ byteAddress s.nextCycle.busAddr = 0x14)
      ∨ (s.busy = true ∧ s.halted = false ∧ (decode s.cmd = .ok .tick ∨ decode s.cmd = .ok (.seqRender true))) := by
  cases step_changeCause seesDataOnly_blockCount h changed with
  | reset rst _ => exact .inl rst
  | completion busy running p word advances => exact .inr (.inr ⟨busy, running, word ▸ complete_blockCount advances⟩)
  | abort busy running _ _ p word advances =>
    exact .inr (.inr ⟨busy, running, word ▸ complete_blockCount (abortCommand_blockCount advances)⟩)
  | write we p v l located _ _ stores =>
    subst located
    exact .inr (.inl ⟨we, writeLocation_blockCount stores⟩)

/-- A step that changes CUR_INDEX had a reset or a command in flight that names an entry: no host write reaches it. -/
theorem step_curIndex {s t : State} (h : step s = .next t) (changed : t.curIndex ≠ s.curIndex) :
    s.nextCycle.rst = true
      ∨ (s.busy = true ∧ s.halted = false
          ∧ (decode s.cmd = .ok .seqIndex ∨ ∃ adv, decode s.cmd = .ok (.seqRender adv))) := by
  cases step_changeCause seesDataOnly_curIndex h changed with
  | reset rst _ => exact .inl rst
  | completion busy running p word names => exact .inr ⟨busy, running, word ▸ complete_curIndex names⟩
  | abort busy running _ _ p word names =>
    exact .inr ⟨busy, running, word ▸ complete_curIndex (abortCommand_curIndex names)⟩
  | write _ p v l _ _ _ stores => exact absurd (writeLocation_curIndex p v l) stores

/-- Settles O44: the two registers of the position, each with the causes that reach it. -/
theorem positionChangesOnlyBy : Obligations.PositionChangesOnlyBy :=
  fun _ _ h => ⟨step_blockCount h, step_curIndex h⟩

/-! OUT: its bytes, listed from the OUT window on, and its unspecified contents (log 8). -/

/-- What a reader of OUT can depend on: the bytes listed from the OUT window on and which contents the others have. -/
def State.outView (s : State) : (Nat → Option Byte) × Nat :=
  (fun a => if outBase ≤ a then Memory.byteAt s.mem a else none, s.outFill)

theorem outView_eq_iff (s t : State) : t.outView = s.outView ↔
    (∀ a, outBase ≤ a → Memory.byteAt t.mem a = Memory.byteAt s.mem a) ∧ t.outFill = s.outFill := by
  rw [State.outView, State.outView, Prod.mk.injEq, funext_iff]
  refine and_congr_left fun _ => forall_congr' fun a => ?_
  by_cases ha : outBase ≤ a <;> simp [ha]

theorem outWord_congr {s t : State} (h : t.outView = s.outView) (j : Nat) : t.outWord j = s.outWord j := by
  obtain ⟨bytes, fill⟩ := (outView_eq_iff s t).1 h
  rw [State.outWord, State.outWord, fill]
  exact Memory.wordAt_congr _ _ _ _ fun k _ => bytes _ (by simp only [outAddress]; omega)

theorem seesDataOnly_outView : SeesDataOnly State.outView := fun s t h => by rw [h]; rfl

/-- A completion that changes OUT is one of a render. -/
theorem complete_outView {s : State} (h : (nextOr s (complete s)).outView ≠ s.outView) :
    (∃ p o, decode s.cmd = .ok (.sample p o)) ∨ (∃ n, decode s.cmd = .ok (.mix n))
      ∨ ∃ adv, decode s.cmd = .ok (.seqRender adv) := by
  rcases complete_cases s with ⟨code, e, -⟩ | ⟨i, t, hi, e, done⟩ <;> rw [e] at h
  · exact absurd rfl h
  · rcases done.mem with same | ⟨render, -⟩
    · have fill : t.outFill = s.outFill := by rw [done.frame]
      exact absurd ((outView_eq_iff s t).2 ⟨fun a _ => by rw [same], fill⟩) h
    · rcases render with ⟨p, o, rfl⟩ | ⟨n, rfl⟩ | ⟨adv, rfl⟩
      · exact .inl ⟨p, o, hi⟩
      · exact .inr (.inl ⟨n, hi⟩)
      · exact .inr (.inr ⟨adv, hi⟩)

/-- No host write reaches OUT: a word of SEQ lies below it, and nothing else a write stores is memory. -/
theorem writeLocation_outView (s : State) (v : Word) (a : Nat) :
    (s.writeLocation v (locate s.build a)).outView = s.outView := by
  cases hl : locate s.build a with
  | register r x => cases r <;> rfl
  | seq e w =>
    obtain ⟨-, -, below⟩ := locate_seq_bounds hl
    refine (outView_eq_iff s _).2 ⟨fun b hb => ?_, rfl⟩
    rw [State.writeLocation, State.setSeqWord_mem, Memory.byteAt_store, wordBytes_length, if_neg (by omega)]
  | out j => rfl
  | wt p j => rfl
  | reserved => rfl

/-- Settles O45: equal views of OUT read the same, and a view changes by a reset, a render or an abort. -/
theorem outChangesOnlyBy : Obligations.OutChangesOnlyBy := by
  intro s t h different
  have changed : t.outView ≠ s.outView := by
    intro same
    obtain ⟨bytes, fill⟩ := (outView_eq_iff s t).1 same
    rcases different with ⟨j, -, word⟩ | ⟨a, ha, byte⟩ | newFill
    · exact word (outWord_congr same j)
    · exact byte (bytes a ha)
    · exact newFill fill
  cases step_changeCause seesDataOnly_outView h changed with
  | reset rst _ => exact .inl rst
  | completion busy running p word renders =>
    rcases word ▸ complete_outView renders with sample | mix | render
    · exact .inr ⟨busy, running, .inl sample⟩
    · exact .inr ⟨busy, running, .inr (.inl mix)⟩
    · exact .inr ⟨busy, running, .inr (.inr (.inl render))⟩
  | abort busy running we halts => exact .inr ⟨busy, running, .inr (.inr (.inr ⟨we, halts⟩))⟩
  | write _ p v l located _ _ stores =>
    subst located
    exact absurd (writeLocation_outView p v _) stores

/-! The sequence: its bytes, listed below the OUT window, its unspecified contents (log 8) and its configuration. -/

/-- What a reader of SEQ can depend on, with the four registers that say how it is run. -/
def State.sequenceView (s : State) : (Nat → Option Byte) × Nat × Word × Word × Word × Word :=
  (fun a => if a < outBase then Memory.byteAt s.mem a else none, s.seqFill, s.seqLen, s.seqRateNum, s.seqRateDen,
    s.cycleBlocks)

theorem sequenceView_eq_iff (s t : State) : t.sequenceView = s.sequenceView ↔
    (∀ a, a < outBase → Memory.byteAt t.mem a = Memory.byteAt s.mem a) ∧ t.seqFill = s.seqFill ∧ t.seqLen = s.seqLen
      ∧ t.seqRateNum = s.seqRateNum ∧ t.seqRateDen = s.seqRateDen ∧ t.cycleBlocks = s.cycleBlocks := by
  simp only [State.sequenceView, Prod.mk.injEq, funext_iff]
  refine and_congr_left fun _ => forall_congr' fun a => ?_
  by_cases ha : a < outBase <;> simp [ha]

/-- The words of SEQ lie below OUT, since a legal build has at most 4096 entries (20_memory.md R38). -/
theorem seqWord_congr {s t : State} (h : t.sequenceView = s.sequenceView) {e w : Nat} (he : e < 4096) (hw : w < 4) :
    t.seqWord e w = s.seqWord e w := by
  obtain ⟨bytes, fill, -⟩ := (sequenceView_eq_iff s t).1 h
  rw [State.seqWord, State.seqWord, fill, Memory.wordAt_congr]
  exact fun k hk => bytes _ (by simp only [seqAddress, seqBase, outBase]; omega)

theorem seesDataOnly_sequenceView : SeesDataOnly State.sequenceView := fun s t h => by rw [h]; rfl

/-- No command changes the sequence: what it writes to memory starts at OUT. -/
theorem complete_sequenceView (s : State) : (nextOr s (complete s)).sequenceView = s.sequenceView := by
  rcases complete_cases s with ⟨code, e, -⟩ | ⟨i, t, -, e, done⟩ <;> rw [e]
  · rfl
  · have bytes : ∀ a, a < outBase → Memory.byteAt t.mem a = Memory.byteAt s.mem a := by
      rcases done.mem with same | ⟨-, ws, -, stored⟩
      · exact fun a _ => by rw [same]
      · exact fun a ha => by rw [stored, Memory.byteAt_store, if_neg (by omega)]
    rw [nextOr_next, sequenceView_eq_iff, done.frame]
    exact ⟨bytes, rfl, rfl, rfl, rfl, rfl⟩

/-- Nor does an abort: what it forgets starts at OUT. -/
theorem abortCommand_sequenceView (s : State) : s.abortCommand.sequenceView = s.sequenceView := by
  refine (sequenceView_eq_iff s _).2 ⟨fun a ha => ?_, rfl, rfl, rfl, rfl, rfl⟩
  rw [State.abortCommand_mem, Memory.byteAt_forget, if_neg (by omega)]

/-- A host write that changes the sequence goes to a location that is locked while armed. -/
theorem writeLocation_sequenceView {s : State} {v : Word} {a : Nat}
    (h : (s.writeLocation v (locate s.build a)).sequenceView ≠ s.sequenceView) : (locate s.build a).locks = true := by
  cases hl : locate s.build a with
  | register r x =>
    rw [hl] at h
    cases r with
    | cycleBlocks | seqLen | seqRateNum | seqRateDen => exact configuration_locks hl (by simp)
    | _ => exact absurd rfl h
  | seq e w => rfl
  | _ => exact absurd (by rw [hl]; rfl) h

/-- Settles O46: equal views of the sequence read the same, and a view changes by a reset or a write that is not
locked, so while not armed. -/
theorem sequenceLockedWhileArmed : Obligations.SequenceLockedWhileArmed := by
  intro s t h different
  have changed : t.sequenceView ≠ s.sequenceView := by
    intro same
    obtain ⟨bytes, fill, length, num, den, cycle⟩ := (sequenceView_eq_iff s t).1 same
    obtain ⟨legal, -⟩ := step_cases h
    obtain ⟨-, -, -, -, -, depth⟩ := inRange_bounds (Build.legal_inRange legal)
    rcases different with ⟨e, w, he, hw, word⟩ | ⟨a, ha, byte⟩ | new | new | new | new | new
    · exact word (seqWord_congr same (he.trans_le depth) hw)
    · exact byte (bytes a ha)
    · exact new fill
    · exact new length
    · exact new num
    · exact new den
    · exact new cycle
  cases step_changeCause seesDataOnly_sequenceView h changed with
  | reset rst _ => exact .inl rst
  | completion _ _ p _ completes => exact absurd (complete_sequenceView p) completes
  | abort _ _ _ _ p _ aborts => exact absurd (abortCommand_sequenceView p) aborts
  | write we p v l located unlocked stores differs =>
    subst located
    have idle : p.armed = false := by simpa [writeLocation_sequenceView differs] using unlocked
    refine .inr ⟨we, ?_⟩
    rw [stores, writeLocation_frame]
    exact idle

end Sys2Proof.Machine
end

section
/-! PROOFS. The fields of STATUS (10_state.md R20, 20_memory.md R46). -/

namespace Sys2Proof.Machine

theorem toNat_append_eq_add {m n : Nat} (x : BitVec m) (y : BitVec n) : (x ++ y).toNat = x.toNat * 2 ^ n + y.toNat := by
  rw [BitVec.toNat_append, ← Nat.shiftLeft_add_eq_or_of_lt y.isLt, Nat.shiftLeft_eq]

/-- STATUS is read in every phase: it is none of the registers that are unspecified while busy. -/
theorem hostRead_status (s : State) : (s.hostRead 0x04).busRdata = s.statusWord := by
  have located : locate s.build 0x04 = .register .status .readOnly :=
    locate_row s.build (row := (.status, 0x04, .readOnly)) (by decide)
  simp [State.hostRead, located, Location.unspecifiedWhileBusy, State.locationWord, State.registerWord]

/-- Settles O27: the fields at their bits 11 to 8, 2, 1 and 0. -/
theorem statusReadsItsFields : Obligations.StatusReadsItsFields := by
  intro s
  rw [hostRead_status]
  simp only [State.statusWord, toNat_append_eq_add, BitVec.toNat_ofNat, BitVec.toNat_ofBool]
  omega

end Sys2Proof.Machine
end

section
/-! PROOFS. What a host write does in each of its cases: the errors in their order, the stores, and the halted phase
(20_memory.md R45, 60_exceptions.md R121, R127, R129). -/

namespace Sys2Proof.Machine

variable {s : State} {a : Nat}

/-! One equation per case of a host write. -/

theorem hostWrite_accessError (running : s.halted = false) (refused : (locate s.build a).refusesWrites = true)
    (v : Word) : s.hostWrite a v = s.failWrite .accessError a := by
  simp [State.hostWrite, running, refused]

theorem hostWrite_busyWrite (running : s.halted = false) (accepts : (locate s.build a).refusesWrites = false)
    (busy : s.busy = true) (ordinary : (locate s.build a).isIrqRegister = false) (v : Word) :
    s.hostWrite a v = s.failWrite .busyWrite a := by
  simp [State.hostWrite, running, accepts, busy, ordinary]

theorem hostWrite_lockedWrite (running : s.halted = false) (accepts : (locate s.build a).refusesWrites = false)
    (idle : s.busy = false) (armed : s.armed = true) (locked : (locate s.build a).locks = true) (v : Word) :
    s.hostWrite a v = s.failWrite .lockedWrite a := by
  simp [State.hostWrite, running, accepts, idle, armed, locked]

theorem hostWrite_accepted (running : s.halted = false) (idle : s.busy = false) {l : Location}
    (located : locate s.build a = l) (accepts : l.refusesWrites = false) (unlocked : (s.armed && l.locks) = false)
    (v : Word) : s.hostWrite a v = s.writeLocation v l := by
  simp [State.hostWrite, running, idle, located, accepts, unlocked]

theorem hostWrite_halted (halted : s.halted = true) (ordinary : (locate s.build a).isIrqRegister = false) (v : Word) :
    s.hostWrite a v = s := by
  simp [State.hostWrite, halted, ordinary]

/-- The interrupt registers pass every check in every phase: neither halted nor busy nor armed stops the write. -/
theorem hostWrite_irqRegister {l : Location} (located : locate s.build a = l) (irq : l.isIrqRegister = true)
    (accepts : l.refusesWrites = false) (unlocked : l.locks = false) (v : Word) :
    s.hostWrite a v = s.writeLocation v l := by
  cases running : s.halted <;> simp [State.hostWrite, running, located, irq, accepts, unlocked]

/-! The error a failed write reports, whether or not it aborts a command. -/

@[simp] theorem State.failWrite_halted (s : State) (code : ErrorCode) (a : Nat) : (s.failWrite code a).halted = true :=
  rfl

@[simp] theorem State.failWrite_errCode (s : State) (code : ErrorCode) (a : Nat) :
    (s.failWrite code a).errCode = code.bits := rfl

@[simp] theorem State.failWrite_errInfo (s : State) (code : ErrorCode) (a : Nat) :
    (s.failWrite code a).errInfo = BitVec.ofNat 32 a := rfl

/-- Settles O22: the checks of R45 one after another, each place of the map refusing writes, being an interrupt register
or being locked as the address map says. -/
theorem hostWriteErrorsInOrder : Obligations.HostWriteErrorsInOrder := by
  intro s a v running legal address inSeq writable raised
  have raised_of : ∀ code, s.hostWrite address v = s.failWrite code address → raised code.bits := fun code h =>
    ⟨by rw [h, State.failWrite_errCode], by rw [h, State.failWrite_halted], by rw [h, State.failWrite_errInfo]⟩
  have accepts : (locate s.build address).refusesWrites = false ↔ writable := refusesWrites_iff legal address
  refine ⟨fun refused => ?_, fun h busy notStatus notEnable => ?_, fun idle armed configuration => ?_⟩
  · have refuses : (locate s.build address).refusesWrites = true := by simpa using mt accepts.1 refused
    exact raised_of .accessError (hostWrite_accessError running refuses v)
  · have ordinary := isIrqRegister_eq_false s.build notStatus notEnable
    exact raised_of .busyWrite (hostWrite_busyWrite running (accepts.2 h) busy ordinary v)
  · obtain ⟨locks, stores, -⟩ := locks_of_configuration legal configuration
    exact raised_of .lockedWrite (hostWrite_lockedWrite running stores idle armed locks v)

/-! What an accepted write stores. -/

theorem hostWrite_irqStatus (s : State) (v : Word) :
    s.hostWrite 0x0C v = { s with irqStatus := s.irqStatus &&& ~~~(v &&& 0xF#32) } :=
  hostWrite_irqRegister (locate_row s.build (row := (.irqStatus, 0x0C, .writeOneToClear)) (by decide)) rfl rfl rfl v

theorem hostWrite_irqEnable (s : State) (v : Word) : s.hostWrite 0x10 v = { s with irqEnable := v &&& 0xF#32 } :=
  hostWrite_irqRegister (locate_row s.build (row := (.irqEnable, 0x10, .readWrite)) (by decide)) rfl rfl rfl v

/-- A read-write register is stored to whenever the block is neither halted nor busy, armed or not. -/
theorem hostWrite_readWrite {r : Reg} (row : (r, a, .readWrite) ∈ registerTable) (running : s.halted = false)
    (idle : s.busy = false) (v : Word) : s.hostWrite a v = s.writeRegister v r :=
  hostWrite_accepted running idle (locate_row s.build row) rfl (Bool.and_false _) v

/-- A register of the sequencer's configuration is stored to while the block is not armed either. -/
theorem hostWrite_lockedWhileArmed {r : Reg} (row : (r, a, .lockedWhileArmed) ∈ registerTable)
    (running : s.halted = false) (idle : s.busy = false) (unarmed : s.armed = false) (v : Word) :
    s.hostWrite a v = s.writeRegister v r :=
  hostWrite_accepted running idle (locate_row s.build row) rfl (by rw [unarmed, Bool.false_and]) v

theorem hostWrite_seqWord (running : s.halted = false) (idle : s.busy = false) (unarmed : s.armed = false)
    (legal : s.build.inRange = true) {e w : Nat} (he : e < s.build.seqDepth) (hw : w < 4) (v : Word) :
    s.hostWrite (seqAddress e w) v = s.setSeqWord e w v :=
  hostWrite_accepted running idle (locate_seqAddress legal he hw) rfl (by rw [unarmed, Bool.false_and]) v

/-- Settles O23: each register at its address in the table, by the rule of its access. -/
theorem hostWriteStores : Obligations.HostWriteStores := by
  intro s v
  refine ⟨hostWrite_irqStatus s v, hostWrite_irqEnable s v, fun running idle => ?_⟩
  refine ⟨hostWrite_readWrite (r := .blockCount) (by decide) running idle v,
    hostWrite_readWrite (r := .note0) (by decide) running idle v,
    hostWrite_readWrite (r := .note1) (by decide) running idle v,
    hostWrite_readWrite (r := .note2) (by decide) running idle v, fun unarmed => ?_⟩
  exact ⟨hostWrite_lockedWhileArmed (r := .cycleBlocks) (by decide) running idle unarmed v,
    hostWrite_lockedWhileArmed (r := .seqLen) (by decide) running idle unarmed v,
    hostWrite_lockedWhileArmed (r := .seqRateNum) (by decide) running idle unarmed v,
    hostWrite_lockedWhileArmed (r := .seqRateDen) (by decide) running idle unarmed v⟩

/-- A byte outside the four of a SEQ word after that word is written. -/
theorem State.setSeqWord_byteAt (s : State) (e w : Nat) (v : Word) {b : Nat}
    (hb : b < seqAddress e w ∨ seqAddress e w + 4 ≤ b) :
    Memory.byteAt (s.setSeqWord e w v).mem b = Memory.byteAt s.mem b := by
  rw [State.setSeqWord_mem, Memory.byteAt_store, wordBytes_length, if_neg (by omega)]

/-- Settles O24: the write is `setSeqWord`, which stores the four bytes of the masked word and nothing else. -/
theorem seqWordWritten : Obligations.SeqWordWritten := by
  intro s e w v running idle unarmed legal he hw address t
  have stored : t = s.setSeqWord e w v := hostWrite_seqWord running idle unarmed legal he hw v
  rw [stored]
  exact ⟨s.setSeqWord_seqWord e w v, fun b hb => s.setSeqWord_byteAt e w v hb, rfl⟩

/-- Settles O25: the two interrupt registers are written as in every phase, and no other location is. -/
theorem haltedIgnoresWrites : Obligations.HaltedIgnoresWrites := by
  intro s a v halted
  split_ifs with status enable
  · rw [status, hostWrite_irqStatus]
  · rw [enable, hostWrite_irqEnable]
  · exact hostWrite_halted halted (isIrqRegister_eq_false s.build status enable) v

end Sys2Proof.Machine
end

section
/-! PROOFS. What a host read returns and that it changes nothing of the block (20_memory.md R38, R46, R48). -/

namespace Sys2Proof.Machine

/-- Settles O26, by the frame of a read: drawn freely or not, the value goes to `bus_rdata` alone. -/
theorem readsChangeNothing : Obligations.ReadsChangeNothing := hostRead_frame

/-- Where the value is defined, a read returns what the location holds. -/
theorem hostRead_located {s : State} {a : Nat} {l : Location} (located : locate s.build a = l)
    (defined : (s.busy && l.unspecifiedWhileBusy) = false) : (s.hostRead a).busRdata = s.locationWord l := by
  simp [State.hostRead, located, defined]

theorem hostRead_steady {s : State} {a : Nat} {l : Location} (located : locate s.build a = l)
    (steady : l.unspecifiedWhileBusy = false) : (s.hostRead a).busRdata = s.locationWord l :=
  hostRead_located located (by rw [steady, Bool.and_false])

theorem hostRead_idle {s : State} {a : Nat} {l : Location} (located : locate s.build a = l) (idle : s.busy = false) :
    (s.hostRead a).busRdata = s.locationWord l :=
  hostRead_located located (by rw [idle, Bool.false_and])

/-- The steady reads are the register table, but for STATUS and the registers that are unspecified while busy, with
the word each register holds. -/
theorem steadyReads_eq_registerTable (s : State) : s.steadyReads =
    (registerTable.filter fun row => row.1 != .status && !(Location.register row.1 row.2.2).unspecifiedWhileBusy).map
      fun row => (row.2.1, s.registerWord row.1) := rfl

theorem hostRead_steadyReads {s : State} {a : Nat} {v : Word} (h : (a, v) ∈ s.steadyReads) :
    (s.hostRead a).busRdata = v := by
  rw [steadyReads_eq_registerTable, List.mem_map] at h
  obtain ⟨row, kept, e⟩ := h
  obtain ⟨rfl, rfl⟩ := Prod.mk.inj e
  obtain ⟨listed, passes⟩ := List.mem_filter.1 kept
  obtain ⟨-, steady⟩ : row.1 ≠ .status ∧ (Location.register row.1 row.2.2).unspecifiedWhileBusy = false := by
    simpa using passes
  exact hostRead_steady (locate_row s.build listed) steady

/-- The addresses between PARAM_TRANSFORM and NOTE0 hold no register (10_state.md R15). -/
theorem locate_register_gap (b : Build) {a : Nat} (low : 0x44 ≤ a) (high : a < 0x50) : locate b a = .reserved := by
  have unlisted : registerTable.find? (fun row => row.2.1 == a) = none := by
    have gap : ∀ row ∈ registerTable, row.2.1 < 0x44 ∨ 0x50 ≤ row.2.1 := by decide
    refine List.find?_eq_none.2 fun row listed => ?_
    have := gap row listed
    simp only [beq_iff_eq]
    omega
  have below : ¬ (seqBase ≤ a ∧ a < 0x20000) ∧ ¬ (outBase ≤ a ∧ a < 0x48000) ∧ ¬ (wtBase ≤ a ∧ a < 0xE0000) := by
    unfold seqBase outBase wtBase
    omega
  obtain ⟨seq, out, wt⟩ := below
  rw [locate, unlisted]
  dsimp only
  rw [locateWindow, if_neg seq, if_neg out, if_neg wt]

/-- The reserved ranges of R38: the gaps of the register map, and what the three windows leave. -/
theorem locate_reserved_ranges {b : Build} (legal : b.inRange = true) {a : Nat}
    (h : (0x44 ≤ a ∧ a < 0x50) ∨ (0x5C ≤ a ∧ a < 0x10000) ∨ (0x10000 + 16 * b.seqDepth ≤ a ∧ a < 0x40000)
      ∨ (0x40000 + 4 * b.bs ≤ a ∧ a < 0x80000) ∨ 0xE0000 ≤ a
      ∨ (∃ p, p < 12 ∧ 0x80000 + 0x8000 * p + 4 * b.bs ≤ a ∧ a < 0x88000 + 0x8000 * p)) :
    locate b a = .reserved := by
  obtain ⟨-, -, -, blocks, -, entries⟩ := inRange_bounds legal
  rcases h with ⟨low, high⟩ | rest
  · exact locate_register_gap b low high
  · have past : 0x58 < a ∧ ¬ (0x10000 ≤ a ∧ a < 0x10000 + 16 * b.seqDepth)
        ∧ ¬ (0x40000 ≤ a ∧ a < 0x40000 + 4 * b.bs)
        ∧ ¬ (0x80000 ≤ a ∧ a < 0xE0000 ∧ (a - 0x80000) % 0x8000 < 4 * b.bs) := by
      rcases rest with below | seq | out | top | ⟨p, hp, row⟩ <;> omega
    obtain ⟨registers, seq, out, wt⟩ := past
    exact locate_reserved registers seq out wt

/-- Settles O28: every address is located by the map, and a read returns the word of its location. -/
theorem windowReads : Obligations.WindowReads := by
  intro s a legal address value
  refine ⟨fun v h => hostRead_steadyReads h, fun idle h => ?_, fun idle h => ?_, fun idle j hj h => ?_,
    fun e w he hw h => ?_, fun p j hp hj h => ?_, fun h => ?_⟩
  · have located := locate_row s.build (row := (.blockCount, 0x14, .readWrite)) (by decide)
    exact hostRead_idle (h.symm ▸ located) idle
  · have located := locate_row s.build (row := (.curIndex, 0x28, .readOnly)) (by decide)
    exact hostRead_idle (h.symm ▸ located) idle
  · have located : locate s.build address = .out j := h.symm ▸ locate_outAddress legal hj
    exact hostRead_idle located idle
  · have located : locate s.build address = .seq e w := h.symm ▸ locate_seqAddress legal he hw
    exact hostRead_steady located rfl
  · have located : locate s.build address = .wt p j := h.symm ▸ locate_wtWord legal hp hj
    exact hostRead_steady located rfl
  · exact hostRead_steady (locate_reserved_ranges legal h) rfl

end Sys2Proof.Machine
end

section
/-! PROOFS. The decoder and the encoder: what a row of the opcode map selects, the round trips, and the illegal words
(30_encoding.md R57 to R66). -/

namespace Sys2Proof

open Machine

/-! Fields as arithmetic. -/

theorem and_lowMask_toNat (w mask : Word) {k : Nat} (hm : mask.toNat = 2 ^ k - 1) :
    (w &&& mask).toNat = w.toNat % 2 ^ k := by
  rw [BitVec.toNat_and, hm, Nat.and_two_pow_sub_one_eq_mod]

theorem opcField_toNat (w : Word) : (opcField w).toNat = w.toNat / 2 ^ 28 := by
  simp only [opcField, BitVec.extractLsb'_toNat, Nat.shiftRight_eq_div_pow]
  omega

theorem pitchField_eq (w : Word) : pitchField w = w.toNat % 16 := by
  simp [pitchField]

theorem pitchField_le (w : Word) : pitchField w ≤ 15 := by
  rw [pitchField_eq]
  omega

theorem octaveField_eq (w : Word) : octaveField w = ((w.toNat / 16 : Nat) : Int).bmod 32 := by
  simp only [octaveField, BitVec.toInt_eq_toNat_bmod, BitVec.extractLsb'_toNat, Nat.shiftRight_eq_div_pow, Int.bmod]
  omega

theorem voicesField_eq (w : Word) : voicesField w = w.toNat % 4 := by
  simp [voicesField]

/-! The note format (30_encoding.md R58). -/

/-- The octave's five bits of two's complement stand above the pitch's four. -/
theorem noteBits_toNat {p : Nat} (hp : p ≤ 15) (o : Int) : (noteBits p o).toNat = (o % 32).toNat * 16 + p := by
  have octave : (BitVec.ofInt 32 o &&& 0x1F#32).toNat = (o % 32).toNat := by
    rw [and_lowMask_toNat _ 0x1F#32 (k := 5) rfl, BitVec.toNat_ofInt]
    omega
  have pitch : (BitVec.ofNat 32 p).toNat = p := Nat.mod_eq_of_lt (by omega)
  have fits : (o % 32).toNat <<< 4 < 2 ^ 32 := by rw [Nat.shiftLeft_eq]; omega
  rw [noteBits, BitVec.toNat_or, BitVec.toNat_shiftLeft, octave, pitch, Nat.mod_eq_of_lt fits,
    ← Nat.shiftLeft_add_eq_or_of_lt (by omega : p < 2 ^ 4), Nat.shiftLeft_eq]

theorem pitchField_noteBits {p : Nat} (hp : p ≤ 15) (o : Int) : pitchField (noteBits p o) = p := by
  rw [pitchField_eq, noteBits_toNat hp]
  omega

theorem octaveField_noteBits {p : Nat} (hp : p ≤ 15) {o : Int} (low : -16 ≤ o) (high : o ≤ 15) :
    octaveField (noteBits p o) = o := by
  rw [octaveField_eq, noteBits_toNat hp, Int.bmod]
  omega

/-- A note word is its fields' note in the bits of the format. -/
theorem noteBits_fields (w : Word) : noteBits (pitchField w) (octaveField w) = w &&& 0x1FF#32 := by
  apply BitVec.eq_of_toNat_eq
  rw [noteBits_toNat (pitchField_le w), and_lowMask_toNat w 0x1FF#32 (k := 9) rfl, octaveField_eq,
    pitchField_eq, Int.bmod]
  omega

/-- Settles O5: both fields come back from the format. -/
theorem noteFormat : Obligations.NoteFormat := fun p o hp low high => by
  rw [Note.ofWord, pitchField_noteBits hp, octaveField_noteBits hp low high]

/-! What a row of the opcode map selects (30_encoding.md R62). -/

/-- The bits of a row's words that are neither OPC nor an operand. -/
def OpcodeRow.reserved (r : OpcodeRow) : Word := r.mask &&& 0x0FFFFFFF#32

/-- Every row fixes all of OPC, and its value has no bit but OPC. -/
theorem opcodeRows_fixOpc : ∀ r ∈ opcodeRows, opcField r.mask = 0xF#4 ∧ r.value &&& 0x0FFFFFFF#32 = 0#32 := by
  decide

/-- A word is its OPC and the 28 bits below. -/
theorem eq_of_opcField_eq {v w : Word} (opc : opcField v = opcField w)
    (rest : v &&& 0x0FFFFFFF#32 = w &&& 0x0FFFFFFF#32) : v = w := by
  have high : v.toNat / 2 ^ 28 = w.toNat / 2 ^ 28 := by rw [← opcField_toNat, opc, opcField_toNat]
  have low : v.toNat % 2 ^ 28 = w.toNat % 2 ^ 28 := by
    rw [← and_lowMask_toNat v 0x0FFFFFFF#32 (k := 28) rfl, rest, and_lowMask_toNat w _ (k := 28) rfl]
  apply BitVec.eq_of_toNat_eq
  omega

/-- A word selects a row when it has the row's OPC and no reserved bit. -/
theorem OpcodeRow.selects_iff {r : OpcodeRow} (hr : r ∈ opcodeRows) (w : Word) :
    r.selects w = true ↔ opcField w = opcField r.value ∧ w &&& r.reserved = 0#32 := by
  obtain ⟨mask, value⟩ := opcodeRows_fixOpc r hr
  have opc : opcField (w &&& r.mask) = opcField w := by
    have distrib : opcField (w &&& r.mask) = opcField w &&& opcField r.mask := BitVec.extractLsb'_and
    rw [distrib, mask]
    exact BitVec.and_allOnes
  have rest : (w &&& r.mask) &&& 0x0FFFFFFF#32 = w &&& r.reserved := BitVec.and_assoc ..
  rw [OpcodeRow.selects, beq_iff_eq]
  constructor
  · intro h
    rw [← opc, ← rest, h]
    exact ⟨rfl, value⟩
  · rintro ⟨sameOpc, clear⟩
    exact eq_of_opcField_eq (opc.trans sameOpc) (by rw [rest, clear, value])

/-- No word selects two rows: their OPCs differ. -/
theorem OpcodeRow.selects_unique {r r' : OpcodeRow} (hr : r ∈ opcodeRows) (hr' : r' ∈ opcodeRows) {w : Word}
    (h : r.selects w = true) (h' : r'.selects w = true) : r = r' := by
  have opcs : (opcodeRows.map fun r => opcField r.value).Nodup := by decide
  have opc := ((OpcodeRow.selects_iff hr w).1 h).1
  have opc' := ((OpcodeRow.selects_iff hr' w).1 h').1
  exact List.inj_on_of_nodup_map opcs hr hr' (opc.symm.trans opc')

/-- A word stands for the operands of the row it selects. -/
theorem decode_eq_ok_iff (w : Word) (i : Instr) :
    decode w = .ok i ↔ ∃ r ∈ opcodeRows, r.selects w = true ∧ r.operands w = i := by
  unfold decode
  cases h : opcodeRows.find? (·.selects w) with
  | none =>
    have unselected := List.find?_eq_none.1 h
    simpa using fun r hr sel => absurd sel (unselected r hr)
  | some r =>
    have hr := List.mem_of_find?_eq_some h
    have sel : r.selects w = true := List.find?_some (p := fun r : OpcodeRow => r.selects w) h
    constructor
    · intro found
      exact ⟨r, hr, sel, Except.ok.inj found⟩
    · rintro ⟨r', hr', sel', rfl⟩
      rw [OpcodeRow.selects_unique hr hr' sel sel']

/-- A word is illegal when it selects no row. -/
theorem decode_eq_error_iff (w : Word) :
    (∃ e, decode w = .error e) ↔ ∀ r ∈ opcodeRows, r.selects w = false := by
  unfold decode
  cases h : opcodeRows.find? (·.selects w) with
  | none => simpa using List.find?_eq_none.1 h
  | some r =>
    have sel : r.selects w = true := List.find?_some (p := fun r : OpcodeRow => r.selects w) h
    simpa using ⟨r, List.mem_of_find?_eq_some h, sel⟩

/-! The round trips (30_encoding.md R63, R66). -/

/-- A word that selects a row is the row's value and its own operand bits. -/
theorem OpcodeRow.eq_value_or {r : OpcodeRow} {w : Word} (h : r.selects w = true) :
    r.value ||| (w &&& ~~~r.mask) = w := by
  rw [OpcodeRow.selects, beq_iff_eq] at h
  rw [← h, ← BitVec.and_or_distrib_left, BitVec.or_not_self, BitVec.and_allOnes]

theorem ofNat_voicesField (w : Word) : BitVec.ofNat 32 (voicesField w) = w &&& 0x3#32 := by
  apply BitVec.eq_of_toNat_eq
  rw [and_lowMask_toNat w 0x3#32 (k := 2) rfl, BitVec.toNat_ofNat, voicesField_eq]
  omega

theorem encode_seqRender_advField (w : Word) :
    encode (.seqRender (advField w)) = 0x30000000#32 ||| (w &&& 0x1#32) := by
  rw [BitVec.and_one_eq_setWidth_ofBool_getLsbD, encode, advField]
  cases w.getLsbD 0 <;> rfl

/-- What a row reads from a word is well formed and encoded by the row's value and the word's operand bits. -/
theorem OpcodeRow.operands_encode (w : Word) : ∀ r ∈ opcodeRows,
    (r.operands w).WellFormed ∧ encode (r.operands w) = r.value ||| (w &&& ~~~r.mask) := by
  have octave : -16 ≤ octaveField w ∧ octaveField w ≤ 15 := by rw [octaveField_eq, Int.bmod]; omega
  have voices : voicesField w ≤ 3 := by rw [voicesField_eq]; omega
  have noOperand (v : Word) : v = v ||| (w &&& ~~~0xFFFFFFFF#32) := by simp
  simp only [opcodeRows, List.forall_mem_cons]
  exact ⟨⟨trivial, noOperand _⟩,
    ⟨⟨pitchField_le w, octave⟩, congrArg (0x10000000#32 ||| ·) (noteBits_fields w)⟩,
    ⟨voices, congrArg (0x20000000#32 ||| ·) (ofNat_voicesField w)⟩,
    ⟨trivial, encode_seqRender_advField w⟩,
    ⟨trivial, noOperand _⟩, ⟨trivial, noOperand _⟩, ⟨trivial, noOperand _⟩, ⟨trivial, noOperand _⟩,
    List.forall_mem_nil _⟩

/-- Settles O3: a word that decodes is its row's value and its operand bits, and so is its command's word. -/
theorem encodeOfDecode : Obligations.EncodeOfDecode := by
  intro w i h
  obtain ⟨r, hr, sel, rfl⟩ := (decode_eq_ok_iff w i).1 h
  obtain ⟨wellFormed, word⟩ := OpcodeRow.operands_encode w r hr
  exact ⟨wellFormed, word.trans (OpcodeRow.eq_value_or sel)⟩

/-! The fields of a note lie below OPC, so SAMPLE's word has its note's fields. -/

theorem pitchField_encode_sample (p : Nat) (o : Int) :
    pitchField (encode (.sample p o)) = pitchField (noteBits p o) := by
  have opc : (0x10000000#32 : Word).extractLsb' 0 4 = 0#4 := rfl
  rw [encode, pitchField, BitVec.extractLsb'_or, opc, BitVec.zero_or, pitchField]

theorem octaveField_encode_sample (p : Nat) (o : Int) :
    octaveField (encode (.sample p o)) = octaveField (noteBits p o) := by
  have opc : (0x10000000#32 : Word).extractLsb' 4 5 = 0#5 := rfl
  rw [encode, octaveField, BitVec.extractLsb'_or, opc, BitVec.zero_or, octaveField]

/-- The word of SAMPLE selects its row: the note's bits are operand bits. -/
theorem decode_encode_sample {p : Nat} {o : Int} (hp : p ≤ 15) (low : -16 ≤ o) (high : o ≤ 15) :
    decode (encode (.sample p o)) = .ok (.sample p o) := by
  have pitch := (pitchField_encode_sample p o).trans (pitchField_noteBits hp o)
  have octave := (octaveField_encode_sample p o).trans (octaveField_noteBits hp low high)
  have note : noteBits p o = noteBits p o &&& 0x1FF#32 := by
    rw [← noteBits_fields, pitchField_noteBits hp, octaveField_noteBits hp low high]
  have operandBits : noteBits p o &&& 0xFFFFFE00#32 = 0#32 := by
    rw [note, BitVec.and_assoc]
    exact BitVec.and_zero
  have selects : encode (.sample p o) &&& 0xFFFFFE00#32 = 0x10000000#32 := by
    rw [encode, BitVec.and_or_distrib_right, operandBits]
    rfl
  refine (decode_eq_ok_iff _ _).2 ⟨⟨0xFFFFFE00#32, 0x10000000#32, fun w => .sample (pitchField w) (octaveField w)⟩,
    by simp [opcodeRows], beq_iff_eq.2 selects, ?_⟩
  exact congrArg₂ Instr.sample pitch octave

/-- Settles O2: each row's words with every operand. -/
theorem decodeOfEncode : Obligations.DecodeOfEncode := by
  intro i h
  cases i with
  | sample p o =>
    obtain ⟨hp, low, high⟩ := h
    exact decode_encode_sample hp low high
  | mix n =>
    have h : n ≤ 3 := h
    interval_cases n <;> rfl
  | seqRender adv => cases adv <;> rfl
  | nop | seqIndex | tick | arm | disarm => rfl

/-- Settles O1: each word selects its row, and the last one none. -/
theorem specWordsDecode : Obligations.SpecWordsDecode := by
  unfold Obligations.SpecWordsDecode
  decide

/-! The illegal words (30_encoding.md R64). -/

/-- The commands other than SAMPLE. -/
def shortCommands : List Instr :=
  [.nop, .mix 0, .mix 1, .mix 2, .mix 3, .seqRender false, .seqRender true, .seqIndex, .tick, .arm, .disarm]

/-- SAMPLE of every note the format holds. -/
def sampleCommands : List Instr :=
  (List.range 16 ×ˢ List.range 32).map fun note => .sample note.1 ((note.2 : Int) - 16)

/-- The well-formed commands. -/
def commands : List Instr := shortCommands ++ sampleCommands

theorem mem_sampleCommands (i : Instr) :
    i ∈ sampleCommands ↔ ∃ p o, i = .sample p o ∧ p ≤ 15 ∧ -16 ≤ o ∧ o ≤ 15 := by
  simp only [sampleCommands, List.mem_map, Prod.exists, List.mem_product, List.mem_range]
  constructor
  · rintro ⟨p, k, ⟨hp, hk⟩, rfl⟩
    exact ⟨p, (k : Int) - 16, rfl, by omega⟩
  · rintro ⟨p, o, rfl, hp, low, high⟩
    exact ⟨p, (o + 16).toNat, by omega, congrArg (Instr.sample p) (by omega)⟩

theorem sampleCommands_nodup : sampleCommands.Nodup := by
  refine (List.nodup_range.product List.nodup_range).map fun x y h => ?_
  obtain ⟨pitch, octave⟩ := Instr.sample.inj h
  exact Prod.ext pitch (by omega)

theorem commands_nodup : commands.Nodup := by
  refine List.nodup_append.2 ⟨by decide, sampleCommands_nodup, ?_⟩
  rintro i short _ sample rfl
  obtain ⟨p, o, rfl, -⟩ := (mem_sampleCommands i).1 sample
  simp [shortCommands] at short

theorem commands_length : commands.length = 2 ^ 9 + 2 ^ 2 + 2 ^ 1 + 5 := by
  rw [commands, sampleCommands, List.length_append, List.length_map, List.length_product, List.length_range,
    List.length_range]
  rfl

theorem mem_commands (i : Instr) : i ∈ commands ↔ i.WellFormed := by
  rw [commands, List.mem_append, mem_sampleCommands]
  cases i with
  | sample p o => simp [shortCommands]
  | mix n =>
    suffices n = 0 ∨ n = 1 ∨ n = 2 ∨ n = 3 ↔ n ≤ 3 by simpa [shortCommands]
    omega
  | seqRender adv => cases adv <;> simp [shortCommands]
  | nop | seqIndex | tick | arm | disarm => simp [shortCommands]

/-- The legal words are the words of the well-formed commands. -/
theorem mem_map_encode_commands (w : Word) : w ∈ commands.map encode ↔ ∃ i, decode w = .ok i := by
  rw [List.mem_map]
  constructor
  · rintro ⟨i, hi, rfl⟩
    exact ⟨i, decodeOfEncode i ((mem_commands i).1 hi)⟩
  · rintro ⟨i, h⟩
    obtain ⟨wellFormed, word⟩ := encodeOfDecode w i h
    exact ⟨i, (mem_commands i).2 wellFormed, word⟩

theorem encode_injOn {i j : Instr} (hi : i.WellFormed) (hj : j.WellFormed) (h : encode i = encode j) : i = j := by
  have decoded := (decodeOfEncode i hi).symm.trans (h ▸ decodeOfEncode j hj)
  exact Except.ok.inj decoded

theorem complete_illegal {s : State} {e : Illegal} (h : decode s.cmd = .error e) :
    complete s = .next (s.failCommand .illegalCommand) := by
  rw [complete, h]

/-- OPC and the reserved bits of every row, in the order of the opcode map. -/
theorem opcodeRows_reserved : opcodeRows.map (fun r => ((opcField r.value).toNat, r.reserved)) =
    [(0, 0x0FFFFFFF#32), (1, 0x0FFFFE00#32), (2, 0x0FFFFFFC#32), (3, 0x0FFFFFFE#32), (4, 0x0FFFFFFF#32),
      (5, 0x0FFFFFFF#32), (6, 0x0FFFFFFF#32), (7, 0x0FFFFFFF#32)] := by decide

/-- A word is illegal when a reserved bit keeps it from every row whose OPC it has. -/
theorem decode_eq_error_iff_reserved (w : Word) : (∃ e, decode w = .error e) ↔
    ∀ row ∈ opcodeRows.map (fun r => ((opcField r.value).toNat, r.reserved)),
      w.toNat / 2 ^ 28 = row.1 → w &&& row.2 ≠ 0#32 := by
  rw [decode_eq_error_iff, List.forall_mem_map]
  refine forall₂_congr fun r hr => ?_
  rw [← Bool.not_eq_true, OpcodeRow.selects_iff hr, ← opcField_toNat, BitVec.toNat_inj, not_and]

theorem illegal_iff (w : Word) : (∃ e, decode w = .error e) ↔
    (8 ≤ w.toNat / 2 ^ 28
      ∨ (w.toNat / 2 ^ 28 = 1 ∧ w &&& 0x0FFFFE00#32 ≠ 0#32)
      ∨ (w.toNat / 2 ^ 28 = 2 ∧ w &&& 0x0FFFFFFC#32 ≠ 0#32)
      ∨ (w.toNat / 2 ^ 28 = 3 ∧ w &&& 0x0FFFFFFE#32 ≠ 0#32)
      ∨ (w.toNat / 2 ^ 28 ∈ [0, 4, 5, 6, 7] ∧ w &&& 0x0FFFFFFF#32 ≠ 0#32)) := by
  rw [decode_eq_error_iff_reserved, opcodeRows_reserved]
  generalize w.toNat / 2 ^ 28 = opc
  simp only [List.forall_mem_cons]
  rcases Nat.lt_or_ge opc 8 with used | unused
  · interval_cases opc <;> simp
  · have others : ∀ k < 8, opc ≠ k := by omega
    simp [unused, others]

/-- Settles O4: a word selects no row by its OPC or its reserved bits, and the legal words are the 523 commands'. -/
theorem illegalWords : Obligations.IllegalWords := by
  refine ⟨illegal_iff, ⟨commands.map encode, ?_, ?_, mem_map_encode_commands⟩, fun _ _ h => complete_illegal h⟩
  · exact commands_nodup.map_on fun i hi j hj => encode_injOn ((mem_commands i).1 hi) ((mem_commands j).1 hj)
  · rw [List.length_map, commands_length]

end Sys2Proof
end

section
/-! PROOFS. The resampler: the index rule (41_resampler.md R80, R87) and what SAMPLE does with it (R83 to R88). -/

namespace Sys2Proof.Machine

/-! The index rule, an octave written as a count of doublings or of halvings. -/

theorem sourceIndex_natCast (bs i n : Nat) : sourceIndex bs i n = i * 2 ^ n % bs := by simp [sourceIndex]

/-- Halving no times is the same rule, so `n = 0` is no exception. -/
theorem sourceIndex_neg_natCast (bs i n : Nat) : sourceIndex bs i (-n) = i / 2 ^ n % bs := by
  cases n with
  | zero => simp [sourceIndex]
  | succ n =>
    have down : ¬ (0 : Int) ≤ -(n + 1 : Nat) := by omega
    rw [sourceIndex, if_neg down, neg_neg, Int.toNat_natCast]

theorem sourceIndex_lt {bs : Nat} (hbs : 1 ≤ bs) (i : Nat) (o : Int) : sourceIndex bs i o < bs := by
  unfold sourceIndex
  split <;> exact Nat.mod_lt _ hbs

theorem sourceIndex_zero {bs i : Nat} (hi : i < bs) : sourceIndex bs i 0 = i := by
  have same := sourceIndex_natCast bs i 0
  rwa [Nat.cast_zero, pow_zero, mul_one, Nat.mod_eq_of_lt hi] at same

/-- The document's form of the rule, over the rationals. -/
theorem sourceIndex_eq_floor_emod (bs i : Nat) (o : Int) :
    (sourceIndex bs i o : Int) = ⌊(i : ℚ) * (2 : ℚ) ^ o⌋ % (bs : Int) := by
  obtain ⟨n, rfl | rfl⟩ := o.eq_nat_or_neg
  · have whole : (i : ℚ) * (2 : ℚ) ^ (n : Int) = (i * 2 ^ n : Nat) := by push_cast; rw [zpow_natCast]
    rw [sourceIndex_natCast, whole, Int.floor_natCast, Int.natCast_mod]
  · have quotient : (i : ℚ) * (2 : ℚ) ^ (-n : Int) = (i : ℚ) / (2 ^ n : Nat) := by
      push_cast
      rw [zpow_neg, zpow_natCast, div_eq_mul_inv]
    rw [sourceIndex_neg_natCast, quotient, Rat.floor_natCast_div_natCast, Int.natCast_mod, Int.natCast_div]

/-- Settles O47: each clause is one of the forms of the rule above. -/
theorem sourceIndexRule : Obligations.SourceIndexRule := by
  intro bs i o hbs
  refine ⟨fun up => if_pos up, fun down => ?_, sourceIndex_eq_floor_emod bs i o, sourceIndex_lt hbs i o⟩
  rw [Nat.shiftRight_eq_div_pow]
  exact if_neg (not_le.2 down)

/-- R87: an octave up is every second sample, unless the doubled index wraps before it is halved. -/
theorem sourceIndex_succ_octave {bs i : Nat} {k : Int} (h : 0 ≤ k ∨ 2 * i < bs) :
    sourceIndex bs i (k + 1) = sourceIndex bs (2 * i % bs) k := by
  rcases le_or_gt 0 k with up | down
  · obtain ⟨n, rfl⟩ := Int.eq_ofNat_of_zero_le up
    rw [← Nat.cast_succ, sourceIndex_natCast, sourceIndex_natCast, Nat.mod_mul_mod, pow_succ',
      ← mul_assoc, mul_comm i 2]
  · obtain ⟨n, hn⟩ := Int.eq_ofNat_of_zero_le (show 0 ≤ -(k + 1) by omega)
    have noWrap : 2 * i < bs := h.resolve_left (not_le.2 down)
    have halvings : k + 1 = -(n : Int) := by omega
    have oneMore : k = -((n + 1 : Nat) : Int) := by omega
    rw [halvings, oneMore, sourceIndex_neg_natCast, sourceIndex_neg_natCast, Nat.mod_eq_of_lt noWrap, pow_succ',
      Nat.mul_div_mul_left _ _ Nat.two_pos]

/-! SAMPLE's completion. -/

@[simp] theorem State.finish_outWord (s : State) (j : Nat) : s.finish.outWord j = s.outWord j := rfl

theorem exec_sample_of_lt {p : Nat} (hp : p < 12) (o : Int) (s : State) :
    exec (.sample p o) s = .next (s.setOut (noteBlock s.build ⟨p, o⟩)).finish := if_neg (not_le.2 hp)

theorem exec_sample_of_ge {p : Nat} (hp : 12 ≤ p) (o : Int) (s : State) :
    exec (.sample p o) s = .next (s.failCommand .pitchClassRange) := if_pos hp

/-- The words a legal SAMPLE leaves in OUT. -/
theorem sample_outWord {p : Nat} {o : Int} {s t : State} (hp : p < 12) (ht : exec (.sample p o) s = .next t) {j : Nat}
    (hj : j < s.build.bs) : t.outWord j = s.build.wtWord p (sourceIndex s.build.bs j o) := by
  rw [exec_sample_of_lt hp] at ht
  cases ht
  rw [State.finish_outWord, State.setOut_outWord _ _ _ (by rwa [noteBlock_length]), noteBlock_getElem]
  rfl

/-- Settles O14: the pitch guard is SAMPLE's first test, and the fatal-error action is all it does. -/
theorem sampleTrapsOnPitch : Obligations.SampleTrapsOnPitch := fun s _ o hp => exec_sample_of_ge hp o s

/-- Settles O7: past the pitch guard, SAMPLE stores the note's block over the whole of OUT and completes. -/
theorem sampleRendersNote : Obligations.SampleRendersNote := by
  intro s p o hp
  have completes := exec_sample_of_lt hp o s
  refine ⟨_, completes, fun j hj => sample_outWord hp completes hj, fun a outside => ?_, rfl⟩
  rw [State.finish_mem]
  apply State.setOut_byteAt
  rwa [noteBlock_length]

/-- Settles O48: both commands read the same row of the ROM, at source indices that agree by R87. -/
theorem octaveDoubling : Obligations.OctaveDoubling := by
  refine ⟨fun s t u p k i hp hi h ht hu => ?_, by decide, by decide⟩
  have doubled : 2 * i % s.build.bs < s.build.bs := Nat.mod_lt _ (by omega)
  rw [sample_outWord hp hu hi, sample_outWord hp ht doubled, sourceIndex_succ_octave h]

/-! The reference tone. -/

/-- Pitch class 9 is BASE_FREQ itself. -/
theorem pitchFrequency_nine (b : Build) : pitchFrequency b 9 = sampleValue b.baseFreq := by
  simp [pitchFrequency]

/-- Settles O49: SAMPLE 9, 0 copies row 9 of the ROM to OUT, and row 9 samples the sine of BASE_FREQ. -/
theorem referenceToneWithinTolerance : Obligations.ReferenceToneWithinTolerance := by
  intro s tolerance
  have legal : 9 < 12 := by decide
  have completes := exec_sample_of_lt legal 0 s
  refine ⟨_, completes, fun i hi => ?_⟩
  have near := tolerance 9 i legal hi
  rw [idealSample, pitchFrequency_nine] at near
  rwa [sample_outWord legal completes hi, sourceIndex_zero hi]

end Sys2Proof.Machine
end

section
/-! PROOFS. Rounding to binary32 gives the nearest sample (42_mixer.md R89): samples are ordered as their words are, and
whole multiples of a binade's spacing are samples. -/

namespace Sys2Proof.Machine

/-! Samples as words, and their order. -/

theorem isSample_iff (w : Word) : isSample w = true ↔ w.toNat < 0x7F800000 := by
  constructor
  · intro h
    rw [isSample, Bool.and_eq_true, Bool.not_eq_true', bne_iff_ne, exponentField, BitVec.extractLsb'_toNat,
      Nat.shiftRight_eq_div_pow] at h
    obtain ⟨sign, exponent⟩ := h
    have positive := BitVec.toNat_lt_of_msb_false ((BitVec.msb_eq_getLsbD_last w).trans sign)
    omega
  · intro h
    rw [← BitVec.setWidth_eq w, ← BitVec.ofNat_toNat]
    exact isSample_ofNat h

theorem sampleUnits_of_toNat {w : Word} {k r : Nat} (h : isSample w = true) (word : w.toNat = k * 2 ^ 23 + r)
    (hr : r ≤ 2 ^ 24) (normal : k = 0 ∨ 2 ^ 23 ≤ r) : sampleUnits w = r * 2 ^ k := by
  rw [← sampleUnits_ofNat hr normal (word ▸ (isSample_iff w).1 h), ← word, BitVec.ofNat_toNat, BitVec.setWidth_eq]

/-- A sample is `r` multiples of the spacing 2^k, where `k` counts the binades below it. -/
theorem exists_binade {w : Word} (h : isSample w = true) : ∃ k r, w.toNat = k * 2 ^ 23 + r ∧ r < 2 ^ 24 ∧
    (k = 0 ∨ 2 ^ 23 ≤ r) ∧ sampleUnits w = r * 2 ^ k := by
  obtain ⟨k, r, word, hr, normal⟩ : ∃ k r, w.toNat = k * 2 ^ 23 + r ∧ r < 2 ^ 24 ∧ (k = 0 ∨ 2 ^ 23 ≤ r) :=
    ⟨w.toNat / 2 ^ 23 - 1, w.toNat - (w.toNat / 2 ^ 23 - 1) * 2 ^ 23, by omega⟩
  exact ⟨k, r, word, hr, normal, sampleUnits_of_toNat h word hr.le normal⟩

/-- A lower binade lies wholly below a higher one. -/
theorem binade_lt {k k' r r' : Nat} (hk : k < k') (hr : r < 2 ^ 24) (hr' : 2 ^ 23 ≤ r') :
    r * 2 ^ k < r' * 2 ^ k' :=
  calc r * 2 ^ k < 2 ^ 24 * 2 ^ k := Nat.mul_lt_mul_of_pos_right hr (by positivity)
    _ = 2 ^ 23 * 2 ^ (k + 1) := by ring
    _ ≤ r' * 2 ^ k' := Nat.mul_le_mul hr' (Nat.pow_le_pow_right (by decide) hk)

theorem sampleUnits_lt {v w : Word} (hv : isSample v = true) (hw : isSample w = true) (h : v.toNat < w.toNat) :
    sampleUnits v < sampleUnits w := by
  obtain ⟨k, r, hv, hr, hk, unitsV⟩ := exists_binade hv
  obtain ⟨k', r', hw, hr', hk', unitsW⟩ := exists_binade hw
  rw [unitsV, unitsW]
  rcases lt_trichotomy k k' with lower | rfl | higher
  · exact binade_lt lower hr (by omega)
  · exact Nat.mul_lt_mul_of_pos_right (by omega) (by positivity)
  · omega

theorem sampleUnits_le_iff {v w : Word} (hv : isSample v = true) (hw : isSample w = true) :
    sampleUnits v ≤ sampleUnits w ↔ v.toNat ≤ w.toNat := by
  constructor
  · exact fun h => not_lt.1 fun above => absurd h (not_le.2 (sampleUnits_lt hw hv above))
  · intro h
    rcases Nat.lt_or_eq_of_le h with below | same
    · exact Nat.le_of_lt (sampleUnits_lt hv hw below)
    · rw [BitVec.eq_of_toNat_eq same]

theorem sampleUnits_inj {v w : Word} (hv : isSample v = true) (hw : isSample w = true)
    (h : sampleUnits v = sampleUnits w) : v = w :=
  BitVec.eq_of_toNat_eq
    (le_antisymm ((sampleUnits_le_iff hv hw).1 h.le) ((sampleUnits_le_iff hw hv).1 h.ge))

/-- The largest finite value. -/
theorem sampleUnits_le_max {w : Word} (h : isSample w = true) : sampleUnits w ≤ (2 ^ 24 - 1) * 2 ^ 253 := by
  obtain ⟨k, r, hw, hr, normal, units⟩ := exists_binade h
  have finite := (isSample_iff w).1 h
  rw [units]
  exact Nat.mul_le_mul (by omega) (Nat.pow_le_pow_right (by decide) (by omega))

/-- Every multiple of a spacing with at most 24 significant bits is a sample. -/
theorem exists_sample_units {q : Nat} (k : Nat) (hq : q < 2 ^ 24) (hk : k ≤ 253) :
    ∃ w, isSample w = true ∧ sampleUnits w = q * 2 ^ k := by
  induction k generalizing q with
  | zero => exact ⟨BitVec.ofNat 32 q, isSample_ofNat (by omega), by
      simpa using sampleUnits_ofNat (k := 0) (Nat.le_of_lt hq) (.inl rfl) (by omega)⟩
  | succ k ih =>
    rcases Nat.lt_or_ge q (2 ^ 23) with low | normal
    · obtain ⟨w, sample, units⟩ := ih (q := 2 * q) (by omega) (by omega)
      exact ⟨w, sample, by rw [units]; ring⟩
    · have fits : (k + 1) * 2 ^ 23 + q < 0x7F800000 := by omega
      exact ⟨_, isSample_ofNat fits, sampleUnits_ofNat (Nat.le_of_lt hq) (.inr normal) fits⟩

/-! Rounding to a whole number. -/

theorem roundTiesEven_le {num den m : Nat} (hd : 0 < den) (h : num ≤ m * den) : roundTiesEven num den ≤ m := by
  obtain ⟨-, near⟩ := roundTiesEven_near (num := num) hd
  have : roundTiesEven num den * 2 * den < (m + 1) * 2 * den := by
    calc roundTiesEven num den * 2 * den ≤ 2 * num + den := by linarith
      _ < (m + 1) * 2 * den := by linarith
  have := Nat.lt_of_mul_lt_mul_right this
  omega

/-- Half a unit away from the exact value, the even whole number is taken. -/
theorem roundTiesEven_even_of_half {num den : Nat} (hd : 0 < den)
    (half : 2 * |(roundTiesEven num den : Int) * den - num| = den) : roundTiesEven num den % 2 = 0 := by
  have split : ((num / den : Nat) : Int) * den + (num % den : Nat) = num := by exact_mod_cast Nat.div_add_mod' num den
  have below := Nat.mod_lt num hd
  revert half
  simp only [roundTiesEven]
  generalize num / den = q at *
  generalize num % den = m at *
  rw [← split]
  split_ifs with h1 h2
  · rw [show (q : Int) * den - (q * den + m) = -m by ring, abs_neg, Nat.abs_cast]
    omega
  · rw [show ((q + 1 : Nat) : Int) * den - (q * den + m) = den - m by push_cast; ring, abs_of_pos (by omega)]
    omega
  · omega

/-- No whole number is nearer, and another is as near only to an even one. -/
theorem roundTiesEven_nearest {num den : Nat} (hd : 0 < den) (q : Nat) :
    |(roundTiesEven num den : Int) * den - num| ≤ |(q : Int) * den - num|
      ∧ (|(roundTiesEven num den : Int) * den - num| = |(q : Int) * den - num| → q ≠ roundTiesEven num den →
        roundTiesEven num den % 2 = 0) := by
  by_cases same : q = roundTiesEven num den
  · exact ⟨by rw [same], fun _ other => absurd same other⟩
  obtain ⟨below, above⟩ := roundTiesEven_near (num := num) hd
  have within : 2 * |(roundTiesEven num den : Int) * den - num| ≤ den := by
    have below : (2 : Int) * num ≤ 2 * (roundTiesEven num den * den) + den := by exact_mod_cast below
    have above : (2 : Int) * (roundTiesEven num den * den) ≤ 2 * num + den := by exact_mod_cast above
    rcases abs_cases ((roundTiesEven num den : Int) * den - num) with ⟨h, -⟩ | ⟨h, -⟩ <;> rw [h] <;> linarith
  have apart : (den : Int) ≤ |(q : Int) * den - roundTiesEven num den * den| := by
    rw [← sub_mul, abs_mul, Nat.abs_cast]
    exact le_mul_of_one_le_left (by positivity) (Int.one_le_abs (by omega))
  have triangle := abs_sub_le ((q : Int) * den) num (roundTiesEven num den * den)
  rw [abs_sub_comm (num : Int)] at triangle
  exact ⟨by linarith, fun tie _ => roundTiesEven_even_of_half hd (by linarith)⟩

/-! Rounding to a sample. -/

/-- Above the subnormals the exact value is at least 2^23 multiples of the spacing. -/
theorem le_of_spacingLog_ne_zero {num den : Nat} (h : spacingLog num den ≠ 0) :
    2 ^ 23 * (den * 2 ^ spacingLog num den) ≤ num := by
  have exponent : (num / den).log2 = spacingLog num den + 23 := by unfold spacingLog at *; omega
  have nonzero : num / den ≠ 0 := fun zero => h (by simp [spacingLog, zero])
  calc 2 ^ 23 * (den * 2 ^ spacingLog num den) = 2 ^ (num / den).log2 * den := by rw [exponent, pow_add]; ring
    _ ≤ num / den * den := Nat.mul_le_mul_right _ (Nat.log2_self_le nonzero)
    _ ≤ num := Nat.div_mul_le_self num den

/-- How far a sample is from num / den units, times den. -/
def roundingError (num den : Nat) (w : Word) : Int := |(sampleUnits w : Int) * den - num|

theorem roundingError_of_units {w : Word} {q k : Nat} (units : sampleUnits w = q * 2 ^ k) (num den : Nat) :
    roundingError num den w = |(q : Int) * (den * 2 ^ k : Nat) - num| := by
  rw [roundingError, units]
  push_cast
  ring_nf

/-- A sample is a multiple of a given spacing, or it is below the binades that have this spacing. -/
theorem sampleUnits_multiple_or_below {w : Word} (h : isSample w = true) (k : Nat) :
    (∃ q, sampleUnits w = q * 2 ^ k) ∨ k ≠ 0 ∧ sampleUnits w < 2 ^ 23 * 2 ^ k := by
  obtain ⟨j, r, -, hr, -, units⟩ := exists_binade h
  rcases Nat.lt_or_ge j k with lower | higher
  · exact .inr ⟨by omega, units ▸ binade_lt lower hr (le_refl _)⟩
  · exact .inl ⟨r * 2 ^ (j - k), by rw [units, mul_assoc, ← pow_add, Nat.sub_add_cancel higher]⟩

/-- The word is the sample nearest to num / den units, the even one in a tie (42_mixer.md R89). -/
structure IsNearest (num den : Nat) (v : Word) : Prop where
  sample : isSample v = true
  least : ∀ {w}, isSample w = true → roundingError num den v ≤ roundingError num den w
  even : ∀ {w}, isSample w = true →
    roundingError num den v = roundingError num den w → w ≠ v → v.getLsbD 0 = false

section

variable {num den : Nat} (hd : 0 < den) (inRange : num ≤ (2 ^ 24 - 1) * 2 ^ 253 * den)
include hd inRange

/-- Up to the largest finite value the rounded word stays below +infinity. -/
theorem nearestBinary32_fits :
    spacingLog num den * 2 ^ 23 + roundTiesEven num (den * 2 ^ spacingLog num den) < 0x7F800000 := by
  obtain ⟨top, -⟩ := roundTiesEven_spacing (num := num) (den := den)
  rcases lt_trichotomy (spacingLog num den) 253 with low | last | past
  · omega
  · have exact : num ≤ (2 ^ 24 - 1) * (den * 2 ^ spacingLog num den) := by
      rw [last]
      linarith
    have := roundTiesEven_le (by positivity) exact
    omega
  · have above := le_of_spacingLog_ne_zero (num := num) (den := den) (by omega)
    have spacing : 2 ^ 254 ≤ 2 ^ spacingLog num den := Nat.pow_le_pow_right (by decide) past
    have := Nat.mul_le_mul_left den spacing
    omega

theorem nearestBinary32_eq : nearestBinary32 num den =
    BitVec.ofNat 32 (spacingLog num den * 2 ^ 23 + roundTiesEven num (den * 2 ^ spacingLog num den)) := by
  have := nearestBinary32_fits hd inRange
  rw [nearestBinary32, Nat.min_eq_left (by omega)]

theorem isSample_nearestBinary32 : isSample (nearestBinary32 num den) = true := by
  rw [nearestBinary32_eq hd inRange]
  exact isSample_ofNat (nearestBinary32_fits hd inRange)

theorem sampleUnits_nearestBinary32 : sampleUnits (nearestBinary32 num den) =
    roundTiesEven num (den * 2 ^ spacingLog num den) * 2 ^ spacingLog num den := by
  obtain ⟨high, low⟩ := roundTiesEven_spacing (num := num) (den := den)
  rw [nearestBinary32_eq hd inRange, sampleUnits_ofNat high low (nearestBinary32_fits hd inRange)]

/-- The last bit of the rounded word is that of its multiple of the spacing. -/
theorem nearestBinary32_lastBit (even : roundTiesEven num (den * 2 ^ spacingLog num den) % 2 = 0) :
    (nearestBinary32 num den).getLsbD 0 = false := by
  have evenWord : ¬(spacingLog num den * 2 ^ 23 + roundTiesEven num (den * 2 ^ spacingLog num den)) % 2 = 1 := by omega
  rw [nearestBinary32_eq hd inRange, BitVec.getLsbD_ofNat, Nat.testBit_zero, decide_eq_false evenWord, Bool.and_false]

/-- A sample of a lower binade than the exact value's is farther from it than the rounded word: the lower end of the
exact value's binade lies between. -/
theorem roundingError_lt_of_below {w : Word} (normal : spacingLog num den ≠ 0)
    (below : sampleUnits w < 2 ^ 23 * 2 ^ spacingLog num den) :
    roundingError num den (nearestBinary32 num den) < roundingError num den w := by
  have low : sampleUnits w * den < 2 ^ 23 * (den * 2 ^ spacingLog num den) := by
    have := Nat.mul_lt_mul_of_pos_right below hd
    linarith
  have exact := le_of_spacingLog_ne_zero normal
  zify at low exact
  calc roundingError num den (nearestBinary32 num den)
      ≤ |((2 ^ 23 : Nat) : Int) * (den * 2 ^ spacingLog num den : Nat) - num| := by
        rw [roundingError_of_units (sampleUnits_nearestBinary32 hd inRange)]
        exact (roundTiesEven_nearest (by positivity) _).1
    _ = num - 2 ^ 23 * (den * 2 ^ spacingLog num den) := by
        push_cast
        rw [abs_sub_comm, abs_of_nonneg (by linarith)]
    _ < num - sampleUnits w * den := by linarith
    _ = roundingError num den w := by rw [roundingError, abs_sub_comm, abs_of_nonneg (by linarith)]

/-- Rounding gives the nearest sample (42_mixer.md R89). -/
theorem nearestBinary32_isNearest : IsNearest num den (nearestBinary32 num den) := by
  have units := sampleUnits_nearestBinary32 hd inRange
  have sample := isSample_nearestBinary32 hd inRange
  have spacing : 0 < den * 2 ^ spacingLog num den := by positivity
  refine ⟨sample, fun {w} hw => ?_, fun {w} hw tie other => ?_⟩
  · rcases sampleUnits_multiple_or_below hw (spacingLog num den) with ⟨q, multiple⟩ | ⟨normal, below⟩
    · rw [roundingError_of_units units, roundingError_of_units multiple]
      exact (roundTiesEven_nearest spacing q).1
    · exact (roundingError_lt_of_below hd inRange normal below).le
  · rcases sampleUnits_multiple_or_below hw (spacingLog num den) with ⟨q, multiple⟩ | ⟨normal, below⟩
    · rw [roundingError_of_units units, roundingError_of_units multiple] at tie
      refine nearestBinary32_lastBit hd inRange ((roundTiesEven_nearest spacing q).2 tie ?_)
      rintro rfl
      exact other (sampleUnits_inj hw sample (multiple.trans units.symm))
    · exact absurd tie (roundingError_lt_of_below hd inRange normal below).ne

end

/-! What follows from nearness. -/

/-- Rounding is monotone: a value at most a sample's is rounded to at most the sample. -/
theorem IsNearest.units_le {num den : Nat} {v w : Word} (h : IsNearest num den v) (hd : 0 < den)
    (hw : isSample w = true) (le : num ≤ sampleUnits w * den) : sampleUnits v ≤ sampleUnits w := by
  by_contra above
  have past := Nat.mul_lt_mul_of_pos_right (not_le.1 above) hd
  have nearer := h.least hw
  zify at le past
  rw [roundingError, roundingError, abs_of_nonneg (by linarith), abs_of_nonneg (by linarith)] at nearer
  linarith

/-- A value that is a sample's is rounded to that sample. -/
theorem IsNearest.eq_of_exact {num den : Nat} {v w : Word} (h : IsNearest num den v) (hd : 0 < den)
    (hw : isSample w = true) (exact : num = sampleUnits w * den) : v = w := by
  have nearer := h.least hw
  have zero : roundingError num den w = 0 := by rw [roundingError, exact, Nat.cast_mul, sub_self, abs_zero]
  rw [zero, roundingError, abs_nonpos_iff, sub_eq_zero, exact] at nearer
  exact sampleUnits_inj h.sample hw (Nat.eq_of_mul_eq_mul_right hd (by exact_mod_cast nearer))

/-! The sum and the quotient of samples. -/

section

variable {a b w : Word} (ha : isSample a = true) (hb : isSample b = true)
include ha hb

theorem fadd32_isNearest (inRange : sampleUnits a + sampleUnits b ≤ (2 ^ 24 - 1) * 2 ^ 253) :
    IsNearest (sampleUnits a + sampleUnits b) 1 (fadd32 a b) := by
  rw [fadd32, ha, hb]
  exact nearestBinary32_isNearest Nat.one_pos (by rwa [Nat.mul_one])

theorem fdiv32_isNearest (nonzero : sampleUnits b ≠ 0)
    (inRange : sampleUnits a * 2 ^ 149 ≤ (2 ^ 24 - 1) * 2 ^ 253 * sampleUnits b) :
    IsNearest (sampleUnits a * 2 ^ 149) (sampleUnits b) (fdiv32 a b) := by
  rw [fdiv32, ha, hb, if_pos (by simpa using nonzero)]
  exact nearestBinary32_isNearest (Nat.pos_of_ne_zero nonzero) inRange

end

/-- Settles O51: the sum is the exact one, rounded once. -/
theorem additionRoundsToNearest : Obligations.AdditionRoundsToNearest := by
  intro a b ha hb inRange
  have nearest := fadd32_isNearest ha hb inRange
  refine ⟨nearest.sample, fun w hw => ?_⟩
  have least := nearest.least hw
  have even := nearest.even hw
  simp only [roundingError, Nat.cast_one, mul_one, Nat.cast_add] at least even
  exact ⟨least, even⟩

/-- Settles O52: the quotient is the exact one, rounded once. -/
theorem divisionRoundsToNearest : Obligations.DivisionRoundsToNearest := by
  intro a b ha hb nonzero inRange
  have nearest := fdiv32_isNearest ha hb nonzero inRange
  refine ⟨nearest.sample, fun w hw => ?_⟩
  have least := nearest.least hw
  have even := nearest.even hw
  simp only [roundingError, Nat.cast_mul, Nat.cast_pow, Nat.cast_ofNat] at least even
  exact ⟨least, even⟩

end Sys2Proof.Machine
end

section
/-! PROOFS. The mixer: its arithmetic on samples (42_mixer.md R89 to R96) and what MIX does with it (R93, R97, R98). -/

namespace Sys2Proof.Machine

/-! Sums and quotients that a sample bounds, and exact ones. -/

section

variable {a b w : Word} (ha : isSample a = true) (hb : isSample b = true) (hw : isSample w = true)
include ha hb hw

/-- A sum at most a sample is rounded to at most that sample. -/
theorem fadd32_le (le : sampleUnits a + sampleUnits b ≤ sampleUnits w) :
    isSample (fadd32 a b) = true ∧ sampleUnits (fadd32 a b) ≤ sampleUnits w := by
  have nearest := fadd32_isNearest ha hb (le.trans (sampleUnits_le_max hw))
  exact ⟨nearest.sample, nearest.units_le Nat.one_pos hw (by rwa [Nat.mul_one])⟩

theorem fadd32_exact (exact : sampleUnits w = sampleUnits a + sampleUnits b) : fadd32 a b = w :=
  (fadd32_isNearest ha hb (exact ▸ sampleUnits_le_max hw)).eq_of_exact Nat.one_pos hw (by rw [Nat.mul_one, exact])

/-- A quotient at most a sample is rounded to at most that sample. -/
theorem fdiv32_le (nonzero : sampleUnits b ≠ 0) (le : sampleUnits a * 2 ^ 149 ≤ sampleUnits w * sampleUnits b) :
    isSample (fdiv32 a b) = true ∧ sampleUnits (fdiv32 a b) ≤ sampleUnits w := by
  have nearest := fdiv32_isNearest ha hb nonzero (le.trans (Nat.mul_le_mul_right _ (sampleUnits_le_max hw)))
  exact ⟨nearest.sample, nearest.units_le (Nat.pos_of_ne_zero nonzero) hw le⟩

theorem fdiv32_exact (nonzero : sampleUnits b ≠ 0) (exact : sampleUnits a * 2 ^ 149 = sampleUnits w * sampleUnits b) :
    fdiv32 a b = w :=
  (fdiv32_isNearest ha hb nonzero (exact.trans_le (Nat.mul_le_mul_right _ (sampleUnits_le_max hw)))).eq_of_exact
    (Nat.pos_of_ne_zero nonzero) hw exact

end

/-! The constants: +0.0 and the divisors. -/

theorem isSample_zero : isSample 0x00000000#32 = true := by decide

@[simp] theorem sampleUnits_zero : sampleUnits 0x00000000#32 = 0 := by decide

/-- Every whole number below 2^24 is a binary32 value. -/
theorem f32_units {n : Nat} (h : n < 2 ^ 24) : isSample (f32 n) = true ∧ sampleUnits (f32 n) = n * 2 ^ 149 := by
  obtain ⟨w, sample, units⟩ := exists_sample_units 149 h (by decide)
  have inRange : n * 2 ^ 149 ≤ (2 ^ 24 - 1) * 2 ^ 253 * 1 := by omega
  have exact : f32 n = w :=
    (nearestBinary32_isNearest Nat.one_pos inRange).eq_of_exact Nat.one_pos sample (by rw [Nat.mul_one, units])
  rw [exact]
  exact ⟨sample, units⟩

theorem f32_one : f32 1 = 0x3F800000#32 := by decide
theorem f32_two : f32 2 = 0x40000000#32 := by decide
theorem f32_three : f32 3 = 0x40400000#32 := by decide

theorem fadd32_zero {w : Word} (hw : isSample w = true) : fadd32 0x00000000#32 w = w :=
  fadd32_exact isSample_zero hw hw (by simp)

theorem fdiv32_one {w : Word} (hw : isSample w = true) : fdiv32 w (f32 1) = w := by
  obtain ⟨sample, units⟩ := f32_units (n := 1) (by decide)
  exact fdiv32_exact hw sample hw (by rw [units]; decide) (by rw [units, Nat.one_mul])

/-- A sum of `n` samples at most `n` times a sample is divided to at most that sample. -/
theorem fdiv32_f32_le {a w : Word} {n : Nat} (ha : isSample a = true) (hw : isSample w = true) (positive : 0 < n)
    (small : n < 2 ^ 24) (le : sampleUnits a ≤ n * sampleUnits w) :
    isSample (fdiv32 a (f32 n)) = true ∧ sampleUnits (fdiv32 a (f32 n)) ≤ sampleUnits w := by
  obtain ⟨sample, units⟩ := f32_units small
  refine fdiv32_le ha sample hw (by rw [units]; positivity) ?_
  rw [units]
  linarith

/-! The mean of one, two and three samples (42_mixer.md R91, R94, R95). -/

theorem meanInOrder_one (a : Word) : meanInOrder [a] = fdiv32 (fadd32 0x00000000#32 a) (f32 1) := rfl

theorem meanInOrder_two (a b : Word) :
    meanInOrder [a, b] = fdiv32 (fadd32 (fadd32 0x00000000#32 a) b) (f32 2) := rfl

theorem meanInOrder_three (a b c : Word) :
    meanInOrder [a, b, c] = fdiv32 (fadd32 (fadd32 (fadd32 0x00000000#32 a) b) c) (f32 3) := rfl

/-- R94: the mean of one sample is the sample. -/
theorem meanInOrder_singleton {w : Word} (hw : isSample w = true) : meanInOrder [w] = w := by
  rw [meanInOrder_one, fadd32_zero hw, fdiv32_one hw]

/-- Twice a sample well below the overflow is a sample. -/
theorem exists_sample_double {m : Word} (hm : m.toNat < 0x7E000000) :
    ∃ w, isSample w = true ∧ sampleUnits w = 2 * sampleUnits m := by
  obtain ⟨k, r, word, hr, normal, units⟩ := exists_binade ((isSample_iff m).2 (by omega))
  obtain ⟨w, sample, double⟩ := exists_sample_units (k + 1) hr (by omega)
  exact ⟨w, sample, by rw [double, units]; ring⟩

theorem toNat_succ {m : Word} (hm : m.toNat < 0x7E000000) : (m + 1#32).toNat = m.toNat + 1 := by
  bv_omega

theorem isSample_succ {m : Word} (hm : m.toNat < 0x7E000000) : isSample (m + 1#32) = true :=
  (isSample_iff _).2 (by rw [toNat_succ hm]; omega)

/-- Between three times a sample and three times the next one lies a sample: of four multiples of the spacing in a row,
one is a multiple of four times the spacing. -/
theorem exists_sample_triple {m : Word} (hm : m.toNat < 0x7E000000) :
    ∃ w, isSample w = true ∧ 3 * sampleUnits m ≤ sampleUnits w ∧ sampleUnits w ≤ 3 * sampleUnits (m + 1#32) := by
  obtain ⟨k, r, word, hr, normal, units⟩ := exists_binade ((isSample_iff m).2 (by omega))
  have next : sampleUnits (m + 1#32) = (r + 1) * 2 ^ k :=
    sampleUnits_of_toNat (isSample_succ hm) (by rw [toNat_succ hm, word, Nat.add_assoc]) hr (by omega)
  obtain ⟨w, sample, multiple⟩ := exists_sample_units (q := (3 * r + 3) / 4) (k + 2) (by omega) (by omega)
  have spacings : sampleUnits w = 4 * ((3 * r + 3) / 4) * 2 ^ k := by rw [multiple]; ring
  refine ⟨w, sample, ?_⟩
  rw [units, next, spacings, ← Nat.mul_assoc, ← Nat.mul_assoc]
  exact ⟨Nat.mul_le_mul_right _ (by omega), Nat.mul_le_mul_right _ (by omega)⟩

section

variable {a b c m : Word} (hm : m.toNat < 0x7E000000) (ham : a.toNat ≤ m.toNat)
include hm ham

/-- A word at most a sample's is a sample of at most its value. -/
theorem sample_of_le : isSample a = true ∧ sampleUnits a ≤ sampleUnits m := by
  have ha := (isSample_iff a).2 (by omega)
  exact ⟨ha, (sampleUnits_le_iff ha ((isSample_iff m).2 (by omega))).2 ham⟩

theorem meanInOrder_one_le : (meanInOrder [a]).toNat ≤ m.toNat := by
  rwa [meanInOrder_singleton (sample_of_le hm ham).1]

variable (hbm : b.toNat ≤ m.toNat)
include hbm

/-- The sum of two samples is at most twice the largest, since that is a sample. -/
theorem sum_two_le : isSample (fadd32 a b) = true ∧ sampleUnits (fadd32 a b) ≤ 2 * sampleUnits m := by
  obtain ⟨ha, la⟩ := sample_of_le hm ham
  obtain ⟨hb, lb⟩ := sample_of_le hm hbm
  obtain ⟨w, hw, double⟩ := exists_sample_double hm
  rw [← double]
  exact fadd32_le ha hb hw (by omega)

theorem meanInOrder_two_le : (meanInOrder [a, b]).toNat ≤ m.toNat := by
  obtain ⟨sample, le⟩ := sum_two_le hm ham hbm
  obtain ⟨hmm, -⟩ := sample_of_le hm le_rfl
  obtain ⟨mean, le⟩ := fdiv32_f32_le sample hmm (n := 2) (by decide) (by decide) le
  rw [meanInOrder_two, fadd32_zero (sample_of_le hm ham).1]
  exact (sampleUnits_le_iff mean hmm).1 le

theorem meanInOrder_three_le (hcm : c.toNat ≤ m.toNat) :
    isSample (meanInOrder [a, b, c]) = true ∧ (meanInOrder [a, b, c]).toNat ≤ m.toNat + 1 := by
  obtain ⟨two, leTwo⟩ := sum_two_le hm ham hbm
  obtain ⟨hc, lc⟩ := sample_of_le hm hcm
  obtain ⟨w, hw, low, high⟩ := exists_sample_triple hm
  obtain ⟨three, leThree⟩ := fadd32_le two hc hw (by omega)
  obtain ⟨mean, le⟩ := fdiv32_f32_le three (isSample_succ hm) (n := 3) (by decide) (by decide) (leThree.trans high)
  rw [meanInOrder_three, fadd32_zero (sample_of_le hm ham).1, ← toNat_succ hm]
  exact ⟨mean, (sampleUnits_le_iff mean (isSample_succ hm)).1 le⟩

end

/-- Settles O54: two samples sum to at most the sample 2m; three to at most a sample that is at most three times the
word after m. -/
theorem mixIsBounded : Obligations.MixIsBounded := by
  intro a b c m ham hbm hcm hm
  obtain ⟨sample, three⟩ := meanInOrder_three_le hm ham hbm hcm
  exact ⟨meanInOrder_one_le hm ham, meanInOrder_two_le hm ham hbm, three, sample⟩

/-- Settles O50: `mixSample` unrolled, with the divisors' words. -/
theorem mixValue : Obligations.MixValue := by
  intro b n0 n1 n2 i word
  rw [← f32_one, ← f32_two, ← f32_three]
  exact ⟨meanInOrder_one _, meanInOrder_two _ _, meanInOrder_three _ _ _⟩

/-! MIX's completion (42_mixer.md R93). -/

/-- A chord that renders leaves its mix in OUT. -/
theorem setOut_chordBlock_outWord {b : Build} {notes : List Note} {ws : List Word} (h : chordBlock b notes = .ok ws)
    (s : State) {j : Nat} (hj : j < b.bs) : (s.setOut ws).finish.outWord j = mixSample b notes j := by
  obtain ⟨-, -, rfl, length⟩ := chordBlock_eq_ok h
  rw [State.finish_outWord, State.setOut_outWord _ _ _ (length.symm ▸ hj), List.getElem_map, List.getElem_range]

section

variable {s : State} {n : Nat}

theorem exec_mix_of_ok {ws : List Word} (h : chordBlock s.build (s.chordOfRegisters n) = .ok ws) :
    exec (.mix n) s = .next (s.setOut ws).finish := by
  simp only [exec, execMix, h]

theorem exec_mix_of_error {code : ErrorCode} (h : chordBlock s.build (s.chordOfRegisters n) = .error code) :
    exec (.mix n) s = .next (s.failCommand code) := by
  simp only [exec, execMix, h]

/-- The chord of the NOTE registers renders when it is not empty and every pitch it uses is one of the twelve. -/
theorem chordOfRegisters_ok (positive : 1 ≤ n) (pitches : ∀ w ∈ s.noteRegisters.take n, w.toNat % 16 < 12) :
    ∃ ws, chordBlock s.build (s.chordOfRegisters n) = .ok ws := by
  refine ⟨_, chordBlock_ok s.build ?_ ?_⟩
  · obtain ⟨k, rfl⟩ := Nat.exists_eq_add_of_le' positive
    simp [State.chordOfRegisters, State.noteRegisters]
  · rw [State.chordOfRegisters, List.forall_mem_map]
    intro w hw
    rw [Note.ofWord, pitchField_eq]
    exact pitches w hw

/-- A used pitch past the twelve keeps the chord from rendering. -/
theorem chordOfRegisters_pitch (h : ∃ w ∈ s.noteRegisters.take n, 12 ≤ w.toNat % 16) :
    chordBlock s.build (s.chordOfRegisters n) = .error .pitchClassRange := by
  obtain ⟨w, hw, past⟩ := h
  refine chordBlock_pitch _ ⟨Note.ofWord w, List.mem_map_of_mem hw, ?_⟩
  rwa [Note.ofWord, pitchField_eq]

/-- A MIX that leaves the block running has rendered its chord. -/
theorem mix_outWord {t : State} (ht : exec (.mix n) s = .next t) (running : t.halted = false) {j : Nat}
    (hj : j < s.build.bs) : t.outWord j = mixSample s.build (s.chordOfRegisters n) j := by
  cases h : chordBlock s.build (s.chordOfRegisters n) with
  | error code =>
    rw [exec_mix_of_error h] at ht
    cases ht
    cases running
  | ok ws =>
    rw [exec_mix_of_ok h] at ht
    cases ht
    exact setOut_chordBlock_outWord h s hj

end

/-- Settles O15: an empty chord fails before its pitches are looked at, and the fatal-error action is all MIX does. -/
theorem mixTrapsInOrder : Obligations.MixTrapsInOrder := fun s =>
  ⟨exec_mix_of_error (code := .invalidArgument) (chordBlock_nil s.build),
    fun _ past => exec_mix_of_error (chordOfRegisters_pitch past)⟩

/-- Settles O8: MIX stores the chord's block over the whole of OUT and completes. -/
theorem mixRendersChord : Obligations.MixRendersChord := by
  intro s n positive _ pitches
  obtain ⟨ws, ok⟩ := chordOfRegisters_ok positive pitches
  obtain ⟨-, -, -, length⟩ := chordBlock_eq_ok ok
  refine ⟨_, exec_mix_of_ok ok, fun j hj => setOut_chordBlock_outWord ok s hj, fun a outside => ?_, rfl⟩
  rw [State.finish_mem]
  apply State.setOut_byteAt
  rwa [length]

/-- Settles O55: the build and the used notes are all `mixSample` reads. -/
theorem mixDependsOnNotesAndRom : Obligations.MixDependsOnNotesAndRom := by
  intro s s' t t' n build notes ht ht' running running' j hj
  have chord : s.chordOfRegisters n = s'.chordOfRegisters n := congrArg (List.map Note.ofWord) notes
  rw [mix_outWord ht running hj, mix_outWord ht' running' (build ▸ hj), build, chord]

/-- The words of a note of a legal image are samples. -/
theorem noteSample_isSample {b : Build} (legal : b.imageLegal = true) {n : Note} (hn : n.pitch < 12) {j : Nat}
    (hj : j < b.bs) : isSample (noteSample b n j) = true :=
  (Build.wtWord_legal legal hn (sourceIndex_lt (by omega) j n.octave)).1

/-- Settles O53: the chord is NOTE0 alone, and the mean of one sample is that sample. -/
theorem oneNoteMixIsSample : Obligations.OneNoteMixIsSample := by
  refine ⟨fun w hw => ⟨fadd32_zero hw, f32_one ▸ fdiv32_one hw⟩, fun s legal pitch => ?_⟩
  have chord : chordBlock s.build (s.chordOfRegisters 1) = _ :=
    chordBlock_ok s.build (notes := [Note.ofWord s.note0]) (by simp) (by simpa using pitch)
  have sample := exec_sample_of_lt pitch (Note.ofWord s.note0).octave s
  refine ⟨_, _, exec_mix_of_ok chord, sample, fun j hj => ?_⟩
  rw [setOut_chordBlock_outWord chord s hj, sample_outWord pitch sample hj]
  exact meanInOrder_singleton (noteSample_isSample legal pitch hj)

end Sys2Proof.Machine
end

section
/-! PROOFS. The sequencer's arithmetic (43_sequencer.md R99 to R102, R107 to R109): the elapsed entry count is one
quotient, so what it does from block to block is division of a sum. -/

namespace Sys2Proof.Machine

/-! The elapsed entry count and the index (43_sequencer.md R99, R100). -/

/-- The rate of R108: BS * NUM over FS * DEN entries a block. -/
theorem elapsedEntries_eq (b : Build) (num den blocks : Nat) :
    elapsedEntries b num den blocks = blocks * (b.bs * num) / (b.fs * den) := by
  rw [elapsedEntries, mul_assoc]

/-- The document's form of the count, over the rationals. -/
theorem elapsedEntries_eq_floor (b : Build) (num den blocks : Nat) :
    (elapsedEntries b num den blocks : Int) = ⌊((blocks : ℚ) * b.bs / b.fs) * ((num : ℚ) / den)⌋ := by
  rw [div_mul_div_comm, elapsedEntries]
  exact_mod_cast (Rat.floor_natCast_div_natCast _ _).symm

/-- A word other than 0 is a positive number. -/
theorem toNat_pos_of_ne_zero {w : Word} (h : w ≠ 0#32) : 0 < w.toNat :=
  Nat.pos_of_ne_zero fun zero => h (BitVec.eq_of_toNat_eq zero)

/-- Settles O56: the quotient of whole numbers is the rational one's floor, and the index a remainder by SEQ_LEN. -/
theorem elapsedEntriesExact : Obligations.ElapsedEntriesExact := fun s blocks _ _ len =>
  ⟨elapsedEntries_eq_floor s.build _ _ blocks, rfl, Nat.mod_lt _ (toNat_pos_of_ne_zero len)⟩

/-- Multiples no further apart than `entry` skip no quotient: the first one to reach `m * entry` is still below
`(m + 1) * entry`. -/
theorem exists_mul_div_eq {step entry : Nat} (moves : 1 ≤ step) (slow : step ≤ entry) (m : Nat) :
    ∃ n, n * step / entry = m := by
  refine ⟨(m * entry + (step - 1)) / step, ?_⟩
  have division := Nat.div_add_mod' (m * entry + (step - 1)) step
  have remainder := Nat.mod_lt (m * entry + (step - 1)) moves
  refine Nat.div_eq_of_lt_le (by omega) ?_
  rw [Nat.succ_mul]
  omega

section

variable (b : Build) (num : Nat) {den : Nat} (hfs : 1 ≤ b.fs) (hden : 1 ≤ den)
include hfs hden

/-- The fraction of q(B) and that of the rate carry at most once (43_sequencer.md R108). -/
theorem elapsedEntries_succ (blocks : Nat) :
    elapsedEntries b num den (blocks + 1) = elapsedEntries b num den blocks + b.bs * num / (b.fs * den)
      ∨ elapsedEntries b num den (blocks + 1) = elapsedEntries b num den blocks + b.bs * num / (b.fs * den) + 1 := by
  rw [elapsedEntries_eq, elapsedEntries_eq, Nat.succ_mul, Nat.add_div (Nat.mul_pos hfs hden)]
  split
  · exact .inr rfl
  · exact .inl rfl

/-- A pass of `len` entries in `c` blocks: every `k` passes count `len * k` entries more. -/
theorem elapsedEntries_add_passes {c len : Nat} (pass : c * (b.bs * num) = len * (b.fs * den)) (blocks k : Nat) :
    elapsedEntries b num den (blocks + c * k) = elapsedEntries b num den blocks + len * k := by
  have passes : c * k * (b.bs * num) = len * k * (b.fs * den) := by
    rw [mul_right_comm, pass, mul_right_comm]
  rw [elapsedEntries_eq, elapsedEntries_eq, add_mul, passes, Nat.add_mul_div_right _ _ (Nat.mul_pos hfs hden)]

end

/-- Settles O59: q is a quotient that grows by one rate a block. -/
theorem indexAdvancesSteadily : Obligations.IndexAdvancesSteadily := by
  intro b num den blocks hfs hden
  refine ⟨?_, elapsedEntries_succ b num hfs hden blocks, fun moves slow m => ?_⟩
  · rw [elapsedEntries_eq, Nat.zero_mul, Nat.zero_div]
  · simpa only [elapsedEntries_eq] using exists_mul_div_eq moves slow m

/-- Settles O60: the blocks before B that a counter modulo C forgets are whole passes. -/
theorem cycleBlocksLosesNothing : Obligations.CycleBlocksLosesNothing := by
  intro s c blocks hfs den _ _ pass
  have passes := elapsedEntries_add_passes s.build _ hfs (toNat_pos_of_ne_zero den) pass
  refine ⟨by simpa using passes blocks 1, ?_⟩
  have whole := passes (blocks % c) (blocks / c)
  rw [Nat.mod_add_div] at whole
  rw [State.sequenceIndex, State.sequenceIndex, whole, Nat.add_mul_mod_self_left]

/-! The block counter (43_sequencer.md R101, R102). -/

/-- Settles O57: a word is 0 when its number is, and a word's increment is modulo 2^32. -/
theorem nextBlockCountRule : Obligations.NextBlockCountRule := by
  intro c b
  have nonzero : c ≠ 0#32 ↔ c.toNat ≠ 0 := not_congr BitVec.toNat_inj.symm
  simp only [nextBlockCount, nonzero]
  split
  · rfl
  · exact BitVec.toNat_add b 1#32

/-- At the rate FS / (BS * P) all but P cancels from the quotient. -/
theorem elapsedEntries_every {b : Build} (hfs : 1 ≤ b.fs) (hbs : 1 ≤ b.bs) (p blocks : Nat) :
    elapsedEntries b b.fs (b.bs * p) blocks = blocks / p := by
  have common : b.fs * (b.bs * p) = p * (b.bs * b.fs) := by ring
  rw [elapsedEntries_eq, common, Nat.mul_div_mul_right _ _ (Nat.mul_pos hbs hfs)]

/-- Settles O58: a count below C goes on, and the one that would be C goes to 0. -/
theorem oneEntryEveryPBlocks : Obligations.OneEntryEveryPBlocks := by
  intro b p len blocks c n legal hp _ hlen hc
  have ⟨hfs, hbs⟩ : 1 ≤ b.fs ∧ 1 ≤ b.bs := by
    simp only [Build.inRange, Bool.and_eq_true, decide_eq_true_eq] at legal
    omega
  have next := nextBlockCountRule c n
  have word := c.isLt
  have positive : 1 ≤ p * len := Nat.mul_pos hp hlen
  refine ⟨elapsedEntries_every hfs hbs p blocks, fun before => ?_, fun last => ?_⟩
  · rw [next, if_neg (by omega), Nat.mod_eq_of_lt (by omega)]
  · rw [next, if_pos (by omega)]

end Sys2Proof.Machine
end

section
/-! PROOFS. What SEQ_INDEX, SEQ_RENDER and TICK do while armed and while not (43_sequencer.md R103 to R105), and the
configurations ARM refuses (44_control.md R118). -/

namespace Sys2Proof.Machine

section

variable {s : State} (armed : s.armed = true)
include armed

theorem exec_seqIndex_of_armed :
    exec .seqIndex s = .next (s.setCurIndex (s.sequenceIndex s.blockCount.toNat)).finish := if_pos armed

theorem exec_tick_of_armed : exec .tick s = .next s.advanceBlockCount.finish := if_pos armed

/-- A selected entry that renders is stored over the whole of OUT; ADV decides about BLOCK_COUNT alone. -/
theorem exec_seqRender_of_ok {ws : List Word}
    (h : chordBlock s.build (s.chordOfEntry (s.sequenceIndex s.blockCount.toNat)) = .ok ws) (adv : Bool) :
    exec (.seqRender adv) s = .next { (s.setOut ws).finish with
      curIndex := BitVec.ofNat 32 (s.sequenceIndex s.blockCount.toNat)
      blockCount := if adv then nextBlockCount s.cycleBlocks s.blockCount else s.blockCount } := by
  simp only [exec, execSeqRender, armed, if_true, h]
  cases adv <;> rfl

theorem exec_seqRender_of_error {code : ErrorCode}
    (h : chordBlock s.build (s.chordOfEntry (s.sequenceIndex s.blockCount.toNat)) = .error code) (adv : Bool) :
    exec (.seqRender adv) s = .next (s.failCommand code) := by
  simp only [exec, execSeqRender, armed, if_true, h]

end

/-- Settles O10: q and the index are written out by their definitions. -/
theorem seqIndexSetsCurIndex : Obligations.SeqIndexSetsCurIndex := fun _ armed => exec_seqIndex_of_armed armed

/-- Settles O11: `nextBlockCount` is written out by its definition. -/
theorem tickAdvancesBlockCount : Obligations.TickAdvancesBlockCount := fun _ armed => exec_tick_of_armed armed

/-! The configuration guards. -/

/-- The sequencer commands look at ARMED first (60_exceptions.md R129). -/
theorem exec_sequencer_of_not_armed {s : State} (h : s.armed = false) {i : Instr}
    (hi : i ∈ [.seqIndex, .seqRender false, .seqRender true, .tick]) :
    exec i s = .next (s.failCommand .configurationError) := by
  have unarmed : ¬ s.armed = true := Bool.eq_false_iff.1 h
  simp only [List.mem_cons, List.not_mem_nil, or_false] at hi
  rcases hi with rfl | rfl | rfl | rfl <;> exact if_neg unarmed

theorem configurationOk_iff (s : State) : s.configurationOk = true ↔
    s.seqLen ≠ 0#32 ∧ s.seqLen.toNat ≤ s.build.seqDepth ∧ s.seqRateDen ≠ 0#32 := by
  simp [State.configurationOk, and_assoc]

theorem exec_arm_of_not_ok {s : State} (h : s.armed = false) (bad : ¬ s.configurationOk = true) :
    exec .arm s = .next (s.failCommand .configurationError) :=
  (if_neg (Bool.eq_false_iff.1 h)).trans (if_neg bad)

/-- Settles O16: each clause fails a guard that comes before everything else of its command. -/
theorem configurationErrors : Obligations.ConfigurationErrors := by
  intro s i unarmed guard
  rcases guard with sequencer | ⟨rfl, bad⟩
  · exact exec_sequencer_of_not_armed unarmed sequencer
  · refine exec_arm_of_not_ok unarmed fun ok => ?_
    obtain ⟨someEntries, fits, rate⟩ := (configurationOk_iff s).1 ok
    rcases bad with noEntries | tooLong | noRate
    · exact someEntries noEntries
    · exact not_lt.2 fits tooLong
    · exact rate noRate

/-! The chord of an entry (30_encoding.md R59). -/

section

variable {s : State} {e : Nat}

theorem chordOfEntry_empty (h : s.entryCount e = 0) : s.chordOfEntry e = [] := by
  rw [State.chordOfEntry, h, List.range_zero, List.map_nil]

/-- An entry renders when it has a note and every pitch it uses is one of the twelve. -/
theorem chordOfEntry_ok (positive : 1 ≤ s.entryCount e)
    (pitches : ∀ k, k < s.entryCount e → (s.seqWord e (k + 1)).toNat % 16 < 12) :
    ∃ ws, chordBlock s.build (s.chordOfEntry e) = .ok ws := by
  refine ⟨_, chordBlock_ok s.build ?_ ?_⟩
  · simp only [State.chordOfEntry, ne_eq, List.map_eq_nil_iff, List.range_eq_nil]
    omega
  · rw [State.chordOfEntry, List.forall_mem_map]
    intro k hk
    rw [Note.ofWord, pitchField_eq]
    exact pitches k (List.mem_range.1 hk)

/-- A used pitch past the twelve keeps the entry from rendering. -/
theorem chordOfEntry_pitch (h : ∃ k, k < s.entryCount e ∧ 12 ≤ (s.seqWord e (k + 1)).toNat % 16) :
    chordBlock s.build (s.chordOfEntry e) = .error .pitchClassRange := by
  obtain ⟨k, used, past⟩ := h
  refine chordBlock_pitch _ ⟨Note.ofWord (s.seqWord e (k + 1)), List.mem_map_of_mem (List.mem_range.2 used), ?_⟩
  rwa [Note.ofWord, pitchField_eq]

end

/-- Settles O17: the chord of the entry fails as MIX's does, an empty one before its pitches are looked at. -/
theorem seqRenderTrapsOnEntry : Obligations.SeqRenderTrapsOnEntry := by
  rintro s adv e armed rfl
  refine ⟨fun empty => ?_, fun past => exec_seqRender_of_error armed (chordOfEntry_pitch past) adv⟩
  refine exec_seqRender_of_error (code := .invalidArgument) armed ?_ adv
  rw [chordOfEntry_empty empty, chordBlock_nil]

/-- Settles O9: SEQ_RENDER stores the entry's block over the whole of OUT and completes. -/
theorem seqRenderRendersEntry : Obligations.SeqRenderRendersEntry := by
  rintro s adv e armed rfl positive pitches
  obtain ⟨ws, ok⟩ := chordOfEntry_ok positive pitches
  obtain ⟨-, -, -, length⟩ := chordBlock_eq_ok ok
  refine ⟨_, exec_seqRender_of_ok armed ok adv, fun j hj => setOut_chordBlock_outWord ok s hj, fun a outside => ?_, rfl⟩
  rw [State.finish_mem]
  apply State.setOut_byteAt
  rwa [length]

end Sys2Proof.Machine
end

section
/-! PROOFS. How a command comes into flight and what completes it: the control commands, the cycle whose one event is a
completion or an accepted write to CMD, and the end of every command in flight (44_control.md R113 to R119). -/

namespace Sys2Proof.Machine

/-! The control commands (44_control.md R117 to R119). -/

/-- Settles O6: NOP is the completion alone. -/
theorem nopCompletes : Obligations.NopCompletes := fun _ => rfl

/-- Settles O13: DISARM clears ARMED before the completion. -/
theorem disarmLeavesArmed : Obligations.DisarmLeavesArmed := fun _ => rfl

theorem State.setArmed_eq_self {s : State} {value : Bool} (h : s.armed = value) : s.setArmed value = s := by
  rw [State.setArmed, ← h]

theorem exec_arm_of_armed {s : State} (armed : s.armed = true) : exec .arm s = .next s.finish := if_pos armed

theorem exec_arm_of_ok {s : State} (unarmed : s.armed = false) (ok : s.configurationOk = true) :
    exec .arm s = .next (s.setArmed true).finish :=
  (if_neg (Bool.eq_false_iff.1 unarmed)).trans (if_pos ok)

/-- Settles O12: an armed block stays as it is, and another is armed after its check. -/
theorem armEntersArmed : Obligations.ArmEntersArmed := by
  intro s ready
  change exec .arm s = .next (s.setArmed true).finish
  cases armed : s.armed with
  | true => rw [exec_arm_of_armed armed, State.setArmed_eq_self armed]
  | false =>
    have ok : s.configurationOk = true :=
      (configurationOk_iff s).2 (ready.resolve_left (Bool.eq_false_iff.1 armed))
    exact exec_arm_of_ok armed ok

/-! Acceptance (44_control.md R113). -/

/-- Settles O21: CMD takes every write while neither halted nor busy, armed or not. -/
theorem commandAccepted : Obligations.CommandAccepted := fun s v running idle =>
  hostWrite_accepted running idle (locate_row s.build (row := (.cmd, 0x00, .issues)) (by decide)) rfl
    (Bool.and_false _) v

/-! The parts of a cycle that do nothing. -/

@[simp] theorem andThen_self (a : Answer) : andThen a .next = a := by cases a <;> rfl

theorem clearTurn_of_not_irqStatus {c : Cycle} {s : State} (h : byteAddress c.busAddr ≠ 0x0C) : clearTurn c s = s :=
  if_neg (by simp [Cycle.clearsPending, isIrqStatus_eq, h])

theorem clearTurn_of_no_write {c : Cycle} (noWrite : c.busWe = false) (s : State) : clearTurn c s = s :=
  if_neg (by simp [Cycle.clearsPending, noWrite])

theorem tickTurn_of_no_tick {c : Cycle} (noTick : c.blockTick = false) (s : State) : tickTurn c s = s :=
  if_neg (Bool.eq_false_iff.1 noTick)

theorem hostTurn_of_no_access {c : Cycle} (noWrite : c.busWe = false) (noRead : c.busRe = false) (s : State) :
    hostTurn c s = s := by
  simp [hostTurn, noWrite, noRead]

/-- A host write goes through to the location it names, but for the one to IRQ_STATUS. -/
theorem hostTurn_of_write {c : Cycle} (write : c.busWe = true) {s : State} (h : byteAddress c.busAddr ≠ 0x0C) :
    hostTurn c s = s.hostWrite (byteAddress c.busAddr) c.busWdata :=
  if_pos (by simp [Cycle.clearsPending, write, isIrqStatus_eq, h])

theorem engineTurn_of_idle {s : State} (idle : s.busy = false) (c : Cycle) : engineTurn c s = .next s :=
  if_neg (by simp [idle])

theorem engineTurn_of_completes {c : Cycle} {s : State} (completes : c.completes = true) (busy : s.busy = true)
    (running : s.halted = false) : engineTurn c s = complete s :=
  if_pos (by simp [completes, busy, running])

/-! Cycles with one event. -/

/-- A cycle that is neither a reset nor refused is its events in their order (60_exceptions.md R133). -/
theorem clockCycle_events {c : Cycle} (noReset : c.rst = false) (strobes : (c.busWe && c.busRe) = false) (s : State) :
    clockCycle c s = andThen (engineTurn c (clearTurn c s)) fun t => .next (hostTurn c (tickTurn c t)) := by
  simp [clockCycle, noReset, strobes]

/-- With every pin low a cycle is the engine's turn. -/
theorem clockCycle_of_low_pins {c : Cycle} (noReset : c.rst = false) (noTick : c.blockTick = false)
    (noWrite : c.busWe = false) (noRead : c.busRe = false) (s : State) : clockCycle c s = engineTurn c s := by
  have strobes : (c.busWe && c.busRe) = false := by rw [noWrite, Bool.false_and]
  simp only [clockCycle_events noReset strobes, clearTurn_of_no_write noWrite, tickTurn_of_no_tick noTick,
    hostTurn_of_no_access noWrite noRead, andThen_self]

/-- A write to CMD in a cycle of its own is accepted by an idle block that is not halted. -/
theorem clockCycle_accept {c : Cycle} {s : State} (running : s.halted = false) (idle : s.busy = false)
    (noReset : c.rst = false) (noTick : c.blockTick = false) (write : c.busWe = true) (noRead : c.busRe = false)
    (address : c.busAddr = 0#18) : clockCycle c s = .next (s.accept c.busWdata) := by
  have strobes : (c.busWe && c.busRe) = false := by rw [noRead, Bool.and_false]
  have toCmd : byteAddress c.busAddr = 0x00 := by rw [address]; rfl
  have notStatus : byteAddress c.busAddr ≠ 0x0C := by rw [toCmd]; decide
  rw [clockCycle_events noReset strobes, clearTurn_of_not_irqStatus notStatus, engineTurn_of_idle idle, andThen_next,
    tickTurn_of_no_tick noTick, hostTurn_of_write write notStatus, toCmd, commandAccepted s _ running idle,
    State.accept]

/-- Settles O35: with every pin low the cycle is the completion step, which decodes the word in CMD. -/
theorem stepRunsCommand : Obligations.StepRunsCommand := by
  intro s i legal running busy completes noReset noTick noWrite noRead decoded
  calc step s
    _ = clockCycle s.nextCycle s.takeCycle := step_of_legal legal
    _ = engineTurn s.nextCycle s.takeCycle := clockCycle_of_low_pins noReset noTick noWrite noRead _
    _ = complete s.takeCycle := engineTurn_of_completes completes busy running
    _ = exec i s.takeCycle := by rw [complete, State.takeCycle_cmd, decoded]

/-! Runs of a machine, a step at a time. -/

theorem run_succ (M : Host.Core) {s t : M.State} (h : M.step s = .next t) (k : Nat) : M.run (k + 1) s = M.run k t := by
  rw [Host.Core.run, h]

theorem run_one (M : Host.Core) (s : M.State) : M.run 1 s = M.step s := by
  cases h : M.step s <;> simp only [Host.Core.run, h]

/-- Settles O36: the first cycle accepts the word, and the second runs what it decodes to. -/
theorem writeThenCompletion : Obligations.WriteThenCompletion := by
  intro s i w c wellFormed legal running idle cycles noReset noTick write noRead address word noReset' noTick' noWrite'
    noRead' completes
  have nextIsWrite : s.nextCycle = w := by rw [State.nextCycle, cycles]; rfl
  have accepted : step s = .next { s with cmd := encode i, busy := true, inputs := [c] } := by
    rw [step_of_legal legal, nextIsWrite,
      clockCycle_accept (s := s.takeCycle) running idle noReset noTick write noRead address, word, State.takeCycle,
      cycles]
    rfl
  have completed := stepRunsCommand { s with cmd := encode i, busy := true, inputs := [c] } i legal running rfl
    completes noReset' noTick' noWrite' noRead' (decodeOfEncode i wellFormed)
  exact (run_succ core accepted 1).trans ((run_one core _).trans completed)

/-! The end of a command in flight (44_control.md R115). -/

/-- A command that the engine's turn leaves in flight is one it did not complete, and it can still be completed. -/
theorem engineTurn_in_flight {c : Cycle} {s t : State} (h : engineTurn c s = .next t)
    (running : s.busy = true → s.halted = false) (busy : t.busy = true) :
    t.halted = false ∧ c.completes = false := by
  rcases engineTurn_cases c s with ⟨e, waits⟩ | ⟨e, -⟩ <;> rw [e] at h
  · cases h
    exact ⟨running busy, by simpa [busy, running busy] using waits⟩
  · rw [complete_eq_next] at h
    cases h
    rw [complete_busy] at busy
    cases busy

/-- After the engine's turn a cycle without a host write changes IRQ_STATUS, OVERRUN_COUNT and what a read
leaves behind. -/
theorem hostTurn_tickTurn_frame {c : Cycle} (noWrite : c.busWe = false) (s : State) :
    ∃ irq overruns rdata draws, hostTurn c (tickTurn c s) =
      { s with irqStatus := irq, overrunCount := overruns, busRdata := rdata, draws := draws } := by
  have read := (hostTurn_cases c (tickTurn c s)).resolve_left fun ⟨write, _⟩ => Bool.eq_false_iff.1 noWrite write
  rw [read, tickTurn_frame]
  exact ⟨_, _, _, _, rfl⟩

/-- What a step without reset and host write leaves: the build, the word in CMD, and a command in flight only where the
engine did not complete, so that it still can in a later cycle. -/
theorem step_of_no_write {s : State} (legal : s.build.legal = true) (noReset : s.nextCycle.rst = false)
    (noWrite : s.nextCycle.busWe = false) (running : s.busy = true → s.halted = false) :
    ∃ t, step s = .next t ∧ t.build = s.build ∧ t.cmd = s.cmd ∧ t.inputs = s.inputs.tail
      ∧ (t.busy = true → t.halted = false ∧ s.nextCycle.completes = false) := by
  have strobes : (s.nextCycle.busWe && s.nextCycle.busRe) = false := by rw [noWrite, Bool.false_and]
  obtain ⟨u, hu⟩ := engineTurn_next s.nextCycle s.takeCycle
  obtain ⟨irq, overruns, rdata, draws, rest⟩ := hostTurn_tickTurn_frame noWrite u
  refine ⟨hostTurn s.nextCycle (tickTurn s.nextCycle u), ?_, ?_⟩
  · rw [step_of_legal legal, clockCycle_events noReset strobes, clearTurn_of_no_write noWrite, hu, andThen_next]
  · have build : u.build = s.build := by rw [engineTurn_frame hu, State.takeCycle_build]
    have cmd : u.cmd = s.cmd := by rw [engineTurn_frame hu, State.takeCycle_cmd]
    have inFlight := engineTurn_in_flight (s := s.takeCycle) hu running
    rw [rest]
    exact ⟨build, cmd, engineTurn_inputs hu, inFlight⟩

/-- One step more than the listed cycles reaches a quiet cycle, which completes what is still in flight by then. -/
theorem run_past_inputs (cycles : List Cycle) : ∀ {s : State}, s.inputs = cycles → s.build.legal = true →
    (s.busy = true → s.halted = false) → (∀ c ∈ cycles, c.rst = false ∧ c.busWe = false) →
    ∃ t, core.run (cycles.length + 1) s = .next t ∧ t.busy = false ∧ t.cmd = s.cmd := by
  induction cycles with
  | nil =>
    intro s inputs legal running _
    have quiet : s.nextCycle = Cycle.quiet := by rw [State.nextCycle, inputs, List.headD_nil]
    obtain ⟨t, ht, -, cmd, -, inFlight⟩ :=
      step_of_no_write legal (by rw [quiet]; rfl) (by rw [quiet]; rfl) running
    have idle : t.busy = false := Bool.eq_false_iff.2 fun busy => by
      have waits := (inFlight busy).2
      rw [quiet] at waits
      cases waits
    exact ⟨t, (run_one core s).trans ht, idle, cmd⟩
  | cons c cycles ih =>
    intro s inputs legal running silent
    have next : s.nextCycle = c := by rw [State.nextCycle, inputs, List.headD_cons]
    obtain ⟨⟨noReset, noWrite⟩, silent⟩ := List.forall_mem_cons.1 silent
    obtain ⟨t, ht, build, cmd, tail, inFlight⟩ :=
      step_of_no_write legal (next ▸ noReset) (next ▸ noWrite) running
    obtain ⟨u, run, idle, cmd'⟩ :=
      ih (by rw [tail, inputs, List.tail_cons]) (build ▸ legal) (fun busy => (inFlight busy).1) silent
    exact ⟨u, (run_succ core ht _).trans run, idle, cmd'.trans cmd⟩

/-- Settles O42: the listed cycles one after another, then the quiet cycle past them. -/
theorem inFlightCompletes : Obligations.InFlightCompletes := fun s legal _ running silent =>
  run_past_inputs s.inputs rfl legal (fun _ => running) silent

end Sys2Proof.Machine
end

section
/-! PROOFS. The fatal-error action, what a fatal error leaves of the command in flight, `block_tick` and the two outputs
(60_exceptions.md R124 to R126, R130, R132). -/

namespace Sys2Proof.Machine

/-- Settles O18: FATAL is bit 1. -/
theorem fatalAction : Obligations.FatalAction := fun _ _ _ => rfl

/-! Fatal errors of a command and of a host write. -/

/-- A command that completes without error leaves HALTED as it was. -/
theorem Completed.halted_eq {i : Instr} {s t : State} (done : Completed i s t) : t.halted = s.halted := by
  rw [done.frame]

/-- A host write that halts a running block failed: no store reaches HALTED. -/
theorem hostWrite_of_halts {s : State} {a : Nat} {v : Word} (running : s.halted = false)
    (halts : (s.hostWrite a v).halted = true) : ∃ code, s.hostWrite a v = s.failWrite code a := by
  have stored : ∀ l, s.hostWrite a v ≠ s.writeLocation v l := fun l e => by
    rw [e, writeLocation_frame, running] at halts
    cases halts
  rcases hostWrite_cases s a v with ⟨halted, -, -⟩ | ⟨-, e⟩ | ⟨-, failed⟩ | ⟨-, -, -, -, e⟩
  · exact absurd halted (Bool.eq_false_iff.1 running)
  · exact absurd e (stored _)
  · exact failed
  · exact absurd e (stored _)

/-- Settles O19: a completion that halts is not one without error, and a write that fails with no command in flight
raises its error on the state as it is. -/
theorem fatalErrorsArePrecise : Obligations.FatalErrorsArePrecise := by
  refine ⟨fun i s t running completes halts => ?_, fun s a v running idle halts => ?_⟩
  · rcases exec_cases i s with ⟨code, failed, -⟩ | ⟨u, completed, done⟩
    · rw [failed] at completes
      cases completes
      exact ⟨code, rfl⟩
    · rw [completed] at completes
      cases completes
      rw [done.halted_eq, running] at halts
      cases halts
  · obtain ⟨code, failed⟩ := hostWrite_of_halts running halts
    exact ⟨code, failed.trans (failWrite_idle idle code a)⟩

/-- Settles O20: a failed write raises its error on what the aborted command leaves, in which OUT is forgotten. -/
theorem abortLeavesOldOrNew : Obligations.AbortLeavesOldOrNew := by
  intro s a v running busy halts t done
  obtain ⟨code, failed⟩ := hostWrite_of_halts running halts
  have aborted : t = s.abortCommand.raiseFatal code (BitVec.ofNat 32 a) := failed.trans (failWrite_busy busy code a)
  have bytes : ∀ b, Memory.byteAt t.mem b =
      if outAddress 0 ≤ b ∧ b < outAddress s.build.bs then none else Memory.byteAt s.mem b := fun b => by
    rw [aborted, State.raiseFatal_mem, State.abortCommand_mem, Memory.byteAt_forget]
    rfl
  obtain ⟨-, curIndex, blockCount, armed⟩ := abortCommand_cases s
  refine ⟨by rwa [aborted], by rwa [aborted], by rwa [aborted], by rw [aborted]; rfl, fun b low high => ?_,
    fun b outside => ?_, by rw [aborted]; rfl, by rw [aborted]; rfl, by rw [aborted]; rfl⟩
  · rw [bytes, if_pos ⟨low, high⟩]
  · rw [bytes, if_neg (by omega)]

/-! `block_tick`. -/

theorem saturatingSucc_eq_min (v : Word) : saturatingSucc v = BitVec.ofNat 32 (min (v.toNat + 1) 0xFFFFFFFF) := by
  unfold saturatingSucc
  split_ifs with full
  · rw [full]
    rfl
  · have notFull : v.toNat ≠ 0xFFFFFFFF := fun e => full (BitVec.eq_of_toNat_eq e)
    rw [min_eq_left (by omega), BitVec.ofNat_add, BitVec.ofNat_toNat, BitVec.setWidth_eq]

/-- Settles O30: TICK alone while idle, and with it OVERRUN and its count while a command is in flight. -/
theorem blockTickAction : Obligations.BlockTickAction := by
  refine fun s => ⟨fun idle => ?_, fun busy => ?_⟩
  · simp only [State.blockTickEvent, idle, Bool.false_eq_true, if_false]
    rfl
  · simp only [State.blockTickEvent, busy, if_true, saturatingSucc_eq_min]
    rfl

/-! The four pending bits and the outputs. -/

/-- The mask of the pending bits has the bits below 4. -/
theorem getLsbD_pendingMask (k : Nat) : (0xF#32).getLsbD k = decide (k < 4) := by
  rw [BitVec.getLsbD_ofNat, Nat.testBit_two_pow_sub_one (n := 4), ← Bool.decide_and, decide_eq_decide]
  omega

theorem and_pendingMask_ne_zero_iff (w : Word) : w &&& 0xF#32 ≠ 0#32 ↔ ∃ k, k < 4 ∧ w.getLsbD k = true := by
  have bit : ∀ k, (w &&& 0xF#32).getLsbD k = true ↔ k < 4 ∧ w.getLsbD k = true := fun k => by
    rw [BitVec.getLsbD_and, getLsbD_pendingMask, Bool.and_eq_true, decide_eq_true_eq, and_comm]
  constructor
  · contrapose!
    refine fun clear => BitVec.eq_of_getLsbD_eq fun k _ => ?_
    rw [BitVec.getLsbD_zero, Bool.eq_false_iff]
    exact fun set => clear k ((bit k).1 set).1 ((bit k).1 set).2
  · rintro ⟨k, hk, set⟩ zero
    have := (bit k).2 ⟨hk, set⟩
    rw [zero, BitVec.getLsbD_zero] at this
    cases this

/-- Settles O31: `irq` looks at the four bits that IRQ_STATUS and IRQ_ENABLE share. -/
theorem interruptOutputs : Obligations.InterruptOutputs := by
  intro s
  have high : s.irq = true ↔ s.irqStatus &&& s.irqEnable &&& 0xF#32 ≠ 0#32 := bne_iff_ne
  refine ⟨?_, rfl⟩
  simp only [high, and_pendingMask_ne_zero_iff, BitVec.getLsbD_and, Bool.and_eq_true]

end Sys2Proof.Machine
end

section
/-! PROOFS. The order of the events within one cycle (60_exceptions.md R133): a set wins over a write of 1, and the
completion goes before `block_tick` and the host access. -/

namespace Sys2Proof.Machine

/-! The pending bits that the events of one cycle set. -/

/-- The bits of a completion, which may have failed, and of a `block_tick`, which may have found a command in flight. -/
def eventBits (completed failed tick inFlight : Bool) : Word :=
  (if completed then if failed then irqFatal else irqDone else 0#32)
    ||| if tick then if inFlight then irqTick ||| irqOverrun else irqTick else 0#32

theorem eventBits_getLsbD : ∀ completed failed tick inFlight : Bool,
    (eventBits completed failed tick inFlight).getLsbD 3 = tick
    ∧ (eventBits completed failed tick inFlight).getLsbD 2 = (tick && inFlight)
    ∧ (eventBits completed failed tick inFlight).getLsbD 1 = (completed && failed)
    ∧ (eventBits completed failed tick inFlight).getLsbD 0 = (completed && !failed) := by decide

theorem eventBits_none (failed inFlight : Bool) : eventBits false failed false inFlight = 0#32 := by simp [eventBits]

theorem eventBits_failed : eventBits true true false false = irqFatal := rfl

theorem eventBits_done : eventBits true false false false = irqDone := rfl

/-- The engine's turn sets DONE for a command that completes, FATAL for one that fails, and no bit where none ends. -/
theorem engineTurn_irqStatus {c : Cycle} {s t : State} (h : engineTurn c s = .next t) :
    t.irqStatus = s.irqStatus ||| eventBits (c.completes && s.busy && !s.halted) t.halted false false := by
  rcases engineTurn_cases c s with ⟨e, waits⟩ | ⟨e, completes, busy, running⟩ <;> rw [e] at h
  · cases h
    rw [waits, eventBits_none, BitVec.or_zero]
  · have ends : (c.completes && s.busy && !s.halted) = true := by rw [completes, busy, running]; rfl
    rw [ends]
    rcases complete_cases s with ⟨code, failed, -⟩ | ⟨i, u, -, completed, done⟩
    · rw [failed] at h
      cases h
      rw [State.failCommand_irqStatus, State.failCommand_halted, eventBits_failed]
    · rw [completed] at h
      cases h
      rw [done.halted_eq, running, done.frame, eventBits_done]

theorem tickTurn_irqStatus (c : Cycle) (s : State) :
    (tickTurn c s).irqStatus = s.irqStatus ||| eventBits false false c.blockTick s.busy := by
  cases tick : c.blockTick with
  | false => rw [tickTurn_of_no_tick tick, eventBits_none, BitVec.or_zero]
  | true => rw [tickTurn, if_pos tick, State.blockTickEvent_irqStatus]; cases s.busy <;> rfl

/-- A cycle without reset whose host access is a write to IRQ_STATUS clears first, and its other events then set. -/
theorem step_of_irqStatus_write {s t : State} (noReset : s.nextCycle.rst = false) (write : s.nextCycle.busWe = true)
    (address : byteAddress s.nextCycle.busAddr = 0x0C) (h : step s = .next t) :
    ∃ u, engineTurn s.nextCycle (s.takeCycle.clearPending s.nextCycle.busWdata) = .next u
      ∧ t = tickTurn s.nextCycle u := by
  have clears : ∀ b, s.nextCycle.clearsPending b = true := fun b => by
    rw [Cycle.clearsPending, write, isIrqStatus_eq, address]
    rfl
  obtain ⟨-, strobes, ⟨reset, -⟩ | ⟨-, u, engine, rfl⟩⟩ := step_cases h
  · rw [noReset] at reset
    cases reset
  · have noRead : s.nextCycle.busRe = false := by rwa [write, Bool.true_and] at strobes
    rw [clearTurn, if_pos (clears _)] at engine
    refine ⟨u, engine, ?_⟩
    simp [hostTurn, clears, noRead]

/-- IRQ_STATUS after such a cycle: what the write left, and over it what the cycle's events set. -/
theorem step_irqStatus_of_write {s t : State} (noReset : s.nextCycle.rst = false) (write : s.nextCycle.busWe = true)
    (address : byteAddress s.nextCycle.busAddr = 0x0C) (h : step s = .next t) :
    t.irqStatus = s.irqStatus &&& ~~~(s.nextCycle.busWdata &&& 0xF#32)
      ||| eventBits (s.nextCycle.completes && s.busy && !s.halted) t.halted s.nextCycle.blockTick t.busy := by
  obtain ⟨u, engine, rfl⟩ := step_of_irqStatus_write noReset write address h
  have flags : (tickTurn s.nextCycle u).halted = u.halted ∧ (tickTurn s.nextCycle u).busy = u.busy := by
    rw [tickTurn_frame]
    exact ⟨rfl, rfl⟩
  rw [tickTurn_irqStatus, engineTurn_irqStatus engine, flags.1, flags.2, BitVec.or_assoc]
  congr 1
  simp [eventBits]

/-- A bit that was set after the clear is set, whatever was written. -/
theorem getLsbD_clear_or_of_set {events : Word} {k : Nat} (set : events.getLsbD k = true) (w v : Word) :
    (w &&& ~~~(v &&& 0xF#32) ||| events).getLsbD k = true := by
  rw [BitVec.getLsbD_or, set, Bool.or_true]

/-- A pending bit that was written 1 and not set after the clear is 0. -/
theorem getLsbD_clear_or_of_written {events v : Word} {k : Nat} (pending : k < 4) (written : v.getLsbD k = true)
    (unset : events.getLsbD k = false) (w : Word) : (w &&& ~~~(v &&& 0xF#32) ||| events).getLsbD k = false := by
  simp [unset, written, getLsbD_pendingMask, pending]

/-- Settles O32: each of the four bits is one event's, and every other bit written 1 stays cleared. -/
theorem setWinsOverClear : Obligations.SetWinsOverClear := by
  intro s t c rest cycles noReset write address h engine
  have next : s.nextCycle = c := by rw [State.nextCycle, cycles, List.headD_cons]
  subst next
  have completed : (s.nextCycle.completes && s.busy && !s.halted) = true ↔ engine := by
    simp only [Bool.and_eq_true, Bool.not_eq_true', and_assoc, engine]
  obtain ⟨tick, overrun, fatal, done⟩ := eventBits_getLsbD (s.nextCycle.completes && s.busy && !s.halted) t.halted
    s.nextCycle.blockTick t.busy
  rw [step_irqStatus_of_write noReset write address h]
  refine ⟨fun ticks => getLsbD_clear_or_of_set (by rw [tick, ticks]) _ _,
    fun ticks busy => getLsbD_clear_or_of_set (by rw [overrun, ticks, busy]; rfl) _ _,
    fun ends halted => getLsbD_clear_or_of_set (by rw [fatal, completed.2 ends, halted]; rfl) _ _,
    fun ends running => getLsbD_clear_or_of_set (by rw [done, completed.2 ends, running]; rfl) _ _,
    fun written noTick => getLsbD_clear_or_of_written (by decide) written (tick.trans noTick) _,
    fun written noEvent => getLsbD_clear_or_of_written (by decide) written ?_ _,
    fun written noEvent => getLsbD_clear_or_of_written (by decide) written ?_ _,
    fun written noEvent => getLsbD_clear_or_of_written (by decide) written ?_ _⟩
  · rw [overrun, Bool.eq_false_iff, ne_eq, Bool.and_eq_true]
    exact noEvent
  · rw [fatal, Bool.eq_false_iff, ne_eq, Bool.and_eq_true, completed]
    exact noEvent
  · rw [done, Bool.eq_false_iff, ne_eq, Bool.and_eq_true, Bool.not_eq_true', completed]
    exact noEvent

/-- Code 6 is BUSY_WRITE's alone (60_exceptions.md R121). -/
theorem ErrorCode.bits_eq_six_iff (code : ErrorCode) : code.bits = 6#4 ↔ code = .busyWrite := by
  cases code <;> decide

/-! The fields of a failed write that are the same whether or not it aborts a command. -/

@[simp] theorem State.failWrite_irqStatus (s : State) (code : ErrorCode) (a : Nat) :
    (s.failWrite code a).irqStatus = s.irqStatus ||| irqFatal := by
  cases busy : s.busy with
  | false => rw [failWrite_idle busy, State.raiseFatal_irqStatus]
  | true => rw [failWrite_busy busy, State.raiseFatal_irqStatus, State.abortCommand_irqStatus]

@[simp] theorem State.failWrite_overrunCount (s : State) (code : ErrorCode) (a : Nat) :
    (s.failWrite code a).overrunCount = s.overrunCount := by
  cases busy : s.busy with
  | false => rw [failWrite_idle busy, State.raiseFatal_overrunCount]
  | true => rw [failWrite_busy busy, State.raiseFatal_overrunCount, State.abortCommand_overrunCount]

/-! What a host write leaves of OVERRUN_COUNT, of the pending bits and of the error. -/

theorem hostWrite_overrunCount (s : State) (a : Nat) (v : Word) : (s.hostWrite a v).overrunCount = s.overrunCount := by
  rcases hostWrite_cases s a v with ⟨-, -, e⟩ | ⟨-, e⟩ | ⟨-, code, e⟩ | ⟨-, -, -, -, e⟩ <;> rw [e]
  · rw [writeLocation_frame]
  · exact s.failWrite_overrunCount code a
  · rw [writeLocation_frame]

/-- A stored value sets no pending bit: IRQ_STATUS takes ones to clear. -/
theorem writeLocation_irqStatus_getLsbD {s : State} {k : Nat} (clear : s.irqStatus.getLsbD k = false) (v : Word)
    (l : Location) : (s.writeLocation v l).irqStatus.getLsbD k = false := by
  cases l with
  | register r x =>
    cases r with
    | irqStatus =>
      rw [State.writeLocation, State.writeRegister, State.clearPending_irqStatus, BitVec.getLsbD_and, clear,
        Bool.false_and]
    | _ => exact clear
  | _ => exact clear

/-- A host write that sets a pending bit sets FATAL. -/
theorem hostWrite_irqStatus_getLsbD {s : State} {k : Nat} (clear : s.irqStatus.getLsbD k = false)
    (notFatal : irqFatal.getLsbD k = false) (a : Nat) (v : Word) : (s.hostWrite a v).irqStatus.getLsbD k = false := by
  rcases hostWrite_cases s a v with ⟨-, -, e⟩ | ⟨-, e⟩ | ⟨-, code, e⟩ | ⟨-, -, -, -, e⟩ <;> rw [e]
  · exact clear
  · exact writeLocation_irqStatus_getLsbD clear v _
  · rw [State.failWrite_irqStatus, BitVec.getLsbD_or, clear, notFatal]
    rfl
  · exact writeLocation_irqStatus_getLsbD clear v _

/-- A host write raises BUSY_WRITE only while a command is in flight. -/
theorem hostWrite_errCode_of_idle {s : State} (idle : s.busy = false) (other : s.errCode ≠ 6#4) (a : Nat) (v : Word) :
    (s.hostWrite a v).errCode ≠ 6#4 := by
  have failed : ∀ code, code ≠ .busyWrite → (s.failWrite code a).errCode ≠ 6#4 := fun code h =>
    mt code.bits_eq_six_iff.1 h
  have stored : (s.writeLocation v (locate s.build a)).errCode ≠ 6#4 := by rwa [writeLocation_frame]
  simp only [State.hostWrite, idle, Bool.false_and, Bool.false_eq_true, if_false]
  split_ifs
  · exact stored
  · exact other
  · exact failed _ (by decide)
  · exact failed _ (by decide)
  · exact stored

/-- What CompletionGoesFirst says of a later state of the cycle: no overrun was counted or is pending, and no BUSY_WRITE
was raised. -/
structure NoOverrunOrBusyWrite (s t : State) : Prop where
  count : t.overrunCount = s.overrunCount
  pending : t.irqStatus.getLsbD 2 = false
  code : t.errCode ≠ 6#4

namespace NoOverrunOrBusyWrite

variable {r s : State}

theorem tickTurn (h : NoOverrunOrBusyWrite r s) (idle : s.busy = false) (c : Cycle) :
    NoOverrunOrBusyWrite r (tickTurn c s) := by
  refine ⟨?_, ?_, ?_⟩
  · cases tick : c.blockTick with
    | false => rw [tickTurn_of_no_tick tick, h.count]
    | true => rw [Machine.tickTurn, if_pos tick, State.blockTickEvent_overrunCount, idle, ← h.count]; rfl
  · obtain ⟨-, overrun, -, -⟩ := eventBits_getLsbD false false c.blockTick s.busy
    rw [tickTurn_irqStatus, BitVec.getLsbD_or, h.pending, overrun, idle, Bool.and_false]
    rfl
  · rw [tickTurn_frame]
    exact h.code

theorem hostTurn (h : NoOverrunOrBusyWrite r s) (idle : s.busy = false) (c : Cycle) :
    NoOverrunOrBusyWrite r (hostTurn c s) := by
  rcases hostTurn_cases c s with ⟨-, -, write⟩ | read
  · rw [write]
    exact ⟨(hostWrite_overrunCount s _ _).trans h.count, hostWrite_irqStatus_getLsbD h.pending (by decide) _ _,
      hostWrite_errCode_of_idle idle h.code _ _⟩
  · rw [read]
    exact ⟨h.count, h.pending, h.code⟩

theorem clearTurn (h : NoOverrunOrBusyWrite r s) (c : Cycle) : NoOverrunOrBusyWrite r (clearTurn c s) := by
  unfold Machine.clearTurn
  split
  · refine ⟨h.count, ?_, h.code⟩
    rw [State.clearPending_irqStatus, BitVec.getLsbD_and, h.pending, Bool.false_and]
  · exact h

/-- The engine raises no BUSY_WRITE, and sets DONE or FATAL alone. -/
theorem engineTurn (h : NoOverrunOrBusyWrite r s) {c : Cycle} {t : State} (engine : engineTurn c s = .next t) :
    NoOverrunOrBusyWrite r t := by
  have count : t.overrunCount = s.overrunCount := by rw [engineTurn_frame engine]
  obtain ⟨-, overrun, -, -⟩ := eventBits_getLsbD (c.completes && s.busy && !s.halted) t.halted false false
  refine ⟨count.trans h.count, ?_, ?_⟩
  · rw [engineTurn_irqStatus engine, BitVec.getLsbD_or, h.pending, overrun]
    rfl
  · rcases engineTurn_cases c s with ⟨e, -⟩ | ⟨e, -⟩ <;> rw [e] at engine
    · cases engine
      exact h.code
    · rcases complete_cases s with ⟨code, failed, own⟩ | ⟨i, u, -, completed, done⟩
      · rw [failed] at engine
        cases engine
        refine mt code.bits_eq_six_iff.1 ?_
        rintro rfl
        exact absurd own (by decide)
      · rw [completed] at engine
        cases engine
        rw [done.frame]
        exact h.code

end NoOverrunOrBusyWrite

/-- Settles O33: the completion leaves no command in flight, and `block_tick` and the host access come after it. -/
theorem completionGoesFirst : Obligations.CompletionGoesFirst := by
  intro s t c rest cycles noReset completes busy running noError noOverrun h
  have next : s.nextCycle = c := by rw [State.nextCycle, cycles, List.headD_cons]
  subst next
  obtain ⟨-, -, ⟨reset, -⟩ | ⟨-, u, engine, rfl⟩⟩ := step_cases h
  · rw [noReset] at reset
    cases reset
  have before : NoOverrunOrBusyWrite s s.takeCycle :=
    ⟨rfl, noOverrun, by rw [State.takeCycle_errCode, noError]; decide⟩
  have completed := (before.clearTurn s.nextCycle).engineTurn engine
  have idle : u.busy = false := by
    rw [engineTurn_of_completes completes (by rwa [clearTurn_frame]) (by rwa [clearTurn_frame]), complete_eq_next]
      at engine
    cases engine
    exact complete_busy _
  have tickIdle : (tickTurn s.nextCycle u).busy = false := by rwa [tickTurn_frame]
  obtain ⟨count, pending, code⟩ := (completed.tickTurn idle s.nextCycle).hostTurn tickIdle s.nextCycle
  exact ⟨count, pending, code⟩

end Sys2Proof.Machine
end

section
/-! PROOFS. A halted block until its reset (60_exceptions.md R127, R128, R130), and what changes ARMED
(60_exceptions.md R134, 44_control.md R118, R119). -/

namespace Sys2Proof.Machine

/-! A halted block. -/

/-- The two states differ at most in IRQ_STATUS, IRQ_ENABLE and what `bus_rdata` carries. -/
def SameButInterrupts (s t : State) : Prop :=
  ∃ pending enable rdata, t = { s with irqStatus := pending, irqEnable := enable, busRdata := rdata }

namespace SameButInterrupts

theorem trans {s t u : State} (first : SameButInterrupts s t) (second : SameButInterrupts t u) :
    SameButInterrupts s u := by
  obtain ⟨_, _, _, rfl⟩ := first
  obtain ⟨pending, enable, rdata, rfl⟩ := second
  exact ⟨pending, enable, rdata, rfl⟩

theorem clearTurn (c : Cycle) (s : State) : SameButInterrupts s (clearTurn c s) := ⟨_, _, _, clearTurn_frame c s⟩

/-- With no command in flight `block_tick` counts no overrun. -/
theorem tickTurn {s : State} (idle : s.busy = false) (c : Cycle) : SameButInterrupts s (tickTurn c s) := by
  cases tick : c.blockTick with
  | false => exact ⟨_, _, _, tickTurn_of_no_tick tick s⟩
  | true => exact ⟨_, _, _, (if_pos tick).trans ((blockTickAction s).1 idle)⟩

theorem writeIrqRegister (s : State) (v : Word) {l : Location} (irq : l.isIrqRegister = true) :
    SameButInterrupts s (s.writeLocation v l) := by
  cases l with
  | register r x =>
    cases r with
    | irqStatus | irqEnable => exact ⟨_, _, _, rfl⟩
    | _ => cases irq
  | _ => cases irq

theorem hostWrite {s : State} (halted : s.halted = true) (a : Nat) (v : Word) :
    SameButInterrupts s (s.hostWrite a v) := by
  cases irq : (locate s.build a).isIrqRegister with
  | false => exact ⟨_, _, _, hostWrite_halted halted irq v⟩
  | true =>
    have stores : s.hostWrite a v = s.writeLocation v (locate s.build a) := by simp [State.hostWrite, halted, irq]
    rw [stores]
    exact writeIrqRegister s v irq

/-- With no command in flight a read draws no free value. -/
theorem hostRead {s : State} (idle : s.busy = false) (a : Nat) : SameButInterrupts s (s.hostRead a) :=
  ⟨_, _, _, if_neg (by simp [idle])⟩

theorem hostTurn {s : State} (halted : s.halted = true) (idle : s.busy = false) (c : Cycle) :
    SameButInterrupts s (hostTurn c s) := by
  unfold Machine.hostTurn
  split_ifs
  · exact hostWrite halted _ _
  · exact hostRead idle _
  · exact ⟨_, _, _, rfl⟩

end SameButInterrupts

/-- A step of a halted block without reset. -/
theorem step_of_halted {s t : State} (halted : s.halted = true) (idle : s.busy = false)
    (noReset : s.nextCycle.rst = false) (h : step s = .next t) : SameButInterrupts s.takeCycle t := by
  obtain ⟨-, -, ⟨reset, -⟩ | ⟨-, u, engine, rfl⟩⟩ := step_cases h
  · rw [noReset] at reset
    cases reset
  have clear := SameButInterrupts.clearTurn s.nextCycle s.takeCycle
  rw [engineTurn_of_idle (by rwa [clearTurn_frame])] at engine
  cases engine
  have tick := clear.trans (SameButInterrupts.tickTurn (by rwa [clearTurn_frame]) s.nextCycle)
  refine tick.trans (SameButInterrupts.hostTurn ?_ ?_ s.nextCycle)
  · rwa [tickTurn_frame, clearTurn_frame]
  · rwa [tickTurn_frame, clearTurn_frame]

/-- The cycle to come has no reset where no listed one has: past the list it is quiet. -/
theorem nextCycle_rst {s : State} (noReset : ∀ c ∈ s.inputs, c.rst = false) : s.nextCycle.rst = false := by
  cases cycles : s.inputs with
  | nil => rw [State.nextCycle, cycles]; rfl
  | cons c rest =>
    rw [State.nextCycle, cycles, List.headD_cons]
    exact noReset c (by rw [cycles]; exact List.mem_cons_self)

/-- A run of one step and more that ends in a next state took its first step. -/
theorem run_succ_eq_next {M : Host.Core} {k : Nat} {s t : M.State} (h : M.run (k + 1) s = .next t) :
    ∃ u, M.step s = .next u ∧ M.run k u = .next t := by
  rw [Host.Core.run] at h
  split at h
  · exact ⟨_, ‹_›, h⟩
  · cases h
  · cases h

/-- Settles O41: step by step, each taking one cycle off the list. -/
theorem haltedUntilReset : Obligations.HaltedUntilReset := by
  intro n
  induction n with
  | zero =>
    intro s t _ _ _ run
    cases run
    exact ⟨_, _, _, rfl⟩
  | succ n ih =>
    intro s t halted idle noReset run
    obtain ⟨u, first, rest⟩ := run_succ_eq_next run
    obtain ⟨pending, enable, rdata, same⟩ := step_of_halted halted idle (nextCycle_rst noReset) first
    have cycles : u.inputs = s.inputs.tail := by rw [same, State.takeCycle_inputs]
    obtain ⟨pending', enable', rdata', later⟩ := ih u t (by rwa [same]) (by rwa [same])
      (fun c hc => noReset c (List.mem_of_mem_tail (cycles ▸ hc))) rest
    refine ⟨pending', enable', rdata', ?_⟩
    rw [later, cycles, List.drop_tail, same]
    rfl

/-! ARMED. -/

theorem seesDataOnly_armed : SeesDataOnly State.armed := fun s t h => by rw [h]

/-- A completion that changes ARMED is one of ARM or DISARM (44_control.md R118, R119). -/
theorem complete_armed {s : State} (h : (nextOr s (complete s)).armed ≠ s.armed) :
    decode s.cmd = .ok .arm ∨ decode s.cmd = .ok .disarm := by
  rcases complete_cases s with ⟨code, e, -⟩ | ⟨i, t, decoded, e, done⟩ <;> rw [e] at h
  · exact absurd rfl h
  · rcases done.armed with same | ⟨rfl, -⟩ | ⟨rfl, -⟩
    · exact absurd same h
    · exact .inr decoded
    · exact .inl decoded

theorem abortCommand_armed_ne {s : State} (h : s.abortCommand.armed ≠ s.armed) :
    (nextOr s (complete s)).armed ≠ s.armed := by
  obtain ⟨-, -, -, old | new⟩ := abortCommand_cases s
  · exact absurd old h
  · rwa [← new]

theorem writeLocation_armed (s : State) (v : Word) (l : Location) : (s.writeLocation v l).armed = s.armed := by
  rw [writeLocation_frame]

/-- Settles O43: of the causes of a change, no host write reaches ARMED, and a command does that is ARM or DISARM. -/
theorem armedChangesOnlyBy : Obligations.ArmedChangesOnlyBy := by
  intro s t h changed
  cases step_changeCause seesDataOnly_armed h changed with
  | reset rst _ => exact .inl rst
  | completion busy running p word arms => exact .inr ⟨busy, running, word ▸ complete_armed arms⟩
  | abort busy running _ _ p word arms =>
    exact .inr ⟨busy, running, word ▸ complete_armed (abortCommand_armed_ne arms)⟩
  | write _ p v l _ _ _ stores => exact absurd (writeLocation_armed p v l) stores

end Sys2Proof.Machine
end

section
/-! PROOFS. What reads give while busy, and the state that a reset leaves (70_reset_and_hazards.md R141, R142, R146). -/

namespace Sys2Proof.Machine

/-! Reads while busy. -/

/-- While busy a read of BLOCK_COUNT, CUR_INDEX or OUT draws the next free value (U6; log 9). -/
theorem hostRead_free {s : State} {a : Nat} {l : Location} (located : locate s.build a = l) (busy : s.busy = true)
    (free : l.unspecifiedWhileBusy = true) : (s.hostRead a).busRdata = Config.busyRead s.draws := by
  simp [State.hostRead, located, busy, free]

/-- Settles O29: the address map says which reads are free, and no other register's read looks at BUSY. -/
theorem busyReads : Obligations.BusyReads := by
  intro s busy legal
  refine ⟨fun address h => ?_, hostRead_status s, fun _ _ => hostRead_steadyReads⟩
  rcases h with rfl | rfl | ⟨j, hj, rfl⟩
  · exact hostRead_free (locate_row s.build (row := (.blockCount, 0x14, .readWrite)) (by decide)) busy rfl
  · exact hostRead_free (locate_row s.build (row := (.curIndex, 0x28, .readOnly)) (by decide)) busy rfl
  · exact hostRead_free (locate_outAddress legal hj) busy rfl

/-! Reset. -/

/-- Where the strobes are not both high, a cycle with `rst` is the reset and nothing else (60_exceptions.md R133). -/
theorem clockCycle_reset {c : Cycle} (strobes : (c.busWe && c.busRe) = false) (reset : c.rst = true) (s : State) :
    clockCycle c s = .next s.applyReset := by
  simp [clockCycle, strobes, reset]

/-- Settles O34: the step is the listed cycle, the cycle is the reset, and the reset's fields are those of the spec. -/
theorem resetCycle : Obligations.ResetCycle := by
  intro s c rest listed reset strobes legal
  have next : s.nextCycle = c := by rw [State.nextCycle, listed, List.headD_cons]
  have left : s.inputs.tail = rest := by rw [listed, List.tail_cons]
  rw [step_of_legal legal, next, clockCycle_reset strobes reset, State.takeCycle, left]
  rfl

/-- A block built with legal parameters meets the invariant right after reset: its memory lists nothing, it holds no
error, and entry 0 is one that every build has. -/
theorem State.Inv.resetOf {b : Build} (legal : b.legal = true) : (State.resetOf b).Inv where
  buildLegal := legal
  memCanonical := rfl
  memMapped _ listed := nomatch listed
  haltedExactly := by simp [State.resetOf]
  codeRaised := by simp [State.resetOf]
  infoOfError _ := rfl
  haltedIdle _ := rfl
  pendingReserved := by simp [State.resetOf]
  enableReserved := by simp [State.resetOf]
  note0Reserved := by simp [State.resetOf]
  note1Reserved := by simp [State.resetOf]
  note2Reserved := by simp [State.resetOf]
  armedChecked armed := nomatch armed
  indexMapped := by
    obtain ⟨-, -, -, -, entries, -⟩ := inRange_bounds (Build.legal_inRange legal)
    exact entries

theorem defaultBuild_legal : Build.default.legal = true := by decide

/-- Settles O39: the default parameters are legal, so the block built with them meets the invariant after reset. -/
theorem resetMeetsInvariant : Obligations.ResetMeetsInvariant := State.Inv.resetOf defaultBuild_legal

end Sys2Proof.Machine
end
